-- ==== Sys2Proof/Word.lean ====
section
/-!
DEFINITION. The word of the block: 32 bits (00_scope.md R7). Every register, delay-memory word and
command word is one, and a binary32 value is held as its 32-bit pattern (R9).
-/

namespace Sys2Proof

/-- A 32-bit word, bit 0 the least significant (R7). -/
abbrev Word := BitVec 32

end Sys2Proof
end

