-- ==== Sys2Proof/Config.lean ====
section
/-!
DEFINITION. What is fixed when the block is built (00_scope.md R5): the counts the spec decides, the two
OPEN parameters DIM and ROW_READ_LAG, and the two OPEN functions NUM_SIN and NUM_TAN.
The opaque constants have no body: nothing can be proved of their values.
-/

namespace Sys2Proof

/-- The build parameters a host reads in HWCFG (R5, 10_state.md R31), with the ranges R5 gives them. -/
structure Build where
  /-- DIM, the rows and the columns of each sensor's matrix. -/
  dim : Nat
  /-- ROW_READ_LAG, the rows between the row index of a row read and the grid row it writes. -/
  lag : Nat
  dim_ge : 2 ≤ dim
  dim_le : dim ≤ 16
  lag_lt : lag < dim
  deriving DecidableEq, Repr

namespace Config

/-- DIM less 2, OPEN (R5): 0 to 14 (log 3). -/
opaque dimExcess : Fin 15

/-- ROW_READ_LAG, OPEN (R5): any number below DIM (log 3). -/
opaque rowReadLag : Fin (dimExcess.val + 2)

/-- NUM_SIN, OPEN (R5), at the operands for which R6 states no value (log 4). -/
opaque numSinFree : Word → Word

/-- NUM_TAN, OPEN (R5), at the operands for which R6 states no value (log 4). -/
opaque numTanFree : Word → Word

/-- The build of the machine that `State.reset` describes. -/
def build : Build where
  dim := dimExcess.val + 2
  lag := rowReadLag.val
  dim_ge := by omega
  dim_le := by omega
  lag_lt := rowReadLag.isLt

/-- NAIN, the analog input channels (R5). -/
def nain : Nat := 16

/-- NFLT, the filter instances (R2, R5). -/
def nflt : Nat := 8

/-- DLY_DEPTH, the words of delay memory per channel (R5). -/
def dlyDepth : Nat := 65536

/-- The value of the ID register, ASCII "EFM1" (10_state.md R31). -/
def idValue : Word := 0x45464D31

end Config

end Sys2Proof
end

