-- ==== Sys2Proof/Machine/State.lean ====
section
/-!
DEFINITION. The state of the block as plain data (10_state.md, 20_memory.md R101), the reset state
(70_reset_and_hazards.md R450), and the reasons a step can stop.
-/

namespace Sys2Proof.Machine

/-- STATUS (R33), one field per bit that is not reserved. -/
structure Status where
  errIllegal : Bool
  errConfig : Bool
  errOrder : Bool
  degen : Bool
  /-- DLY_PHASE (R50): false when the next render expected is the left one, true when it is the right one. -/
  dlyPhase : Bool
  dlyCfg : Bool
  /-- OSC0_CFG and OSC1_CFG (R41). -/
  oscCfg : Vector Bool 2
  deriving DecidableEq, Repr

/-- One oscillator OSCk (R40). -/
structure Osc where
  freq : Word
  amp : Word
  fs : Word
  phase : Word
  out : Word
  deriving DecidableEq, Repr

/-- The FM combiner (R43). -/
structure Fm where
  carBase : Word
  fmOut : Word
  deriving DecidableEq, Repr

/-- One filter instance FLTi: operands (R45), coefficients and history (R46). -/
structure Filter where
  fs : Word
  fc : Word
  input : Word
  output : Word
  b0 : Word
  b1 : Word
  b2 : Word
  a0 : Word
  a1 : Word
  a2 : Word
  x1 : Word
  x2 : Word
  y1 : Word
  y2 : Word
  deriving DecidableEq, Repr

/-- The registers of the delay line (R48, R49); its phase and configured bits are in STATUS. -/
structure Delay where
  fs : Word
  sec : Word
  gain : Word
  input : Word
  outL : Word
  outR : Word
  cap : Word
  /-- LEN as a two's-complement i32. -/
  len : Word
  wpL : Word
  rpL : Word
  wpR : Word
  rpR : Word
  deriving DecidableEq, Repr

/-- One channel of delay memory (20_memory.md R101): the words that are not +0.0, by rising index. The memory
has no unit smaller than a word (R103), so a cell is an index and a word (log 5). -/
abbrev DelayMem := List (Nat × Word)

/-- The two channels of delay memory and of the renders (R101). -/
inductive Channel where
  | left
  | right
  deriving DecidableEq, Repr

/-- The sequencer's registers (R55). -/
structure Seq where
  /-- ROW, the active row. -/
  row : Fin 16
  calDur : Word
  cycles : Word
  deriving DecidableEq, Repr

/-- The calibration states (R60), encoded 0 to 3 in this order. -/
inductive CalState where
  | idle
  | measuringMinima
  | measuringMaxima
  | done
  deriving DecidableEq, Repr

/-- One matrix sensor SNSs (R60 to R65). The arrays have the sixteen columns and rows the register map has room
for; those from DIM on hold no state (R61, R62, R64) and stay at their reset value (log 7). -/
structure Sensor where
  calState : CalState
  calCnt : Word
  /-- COLCH[c], the analog channel of column c (R64). -/
  colch : Vector (Fin 16) 16
  mins : Vector Word 16
  maxs : Vector Word 16
  /-- GRID[c][r]: column first (R62). -/
  grid : Vector (Vector Word 16) 16
  peakVal : Word
  /-- PEAK_LOC.PC, the peak column (R63). -/
  peakCol : Fin 16
  /-- PEAK_LOC.PR, the peak row (R63). -/
  peakRow : Fin 16
  posX : Word
  posY : Word
  posZ : Word
  deriving DecidableEq, Repr

/-- What the outside does to the block, one at a time (20_memory.md R110): a 32-bit read or write of the register
word with an index (R100), or an assertion of the reset input (70_reset_and_hazards.md R451). -/
inductive HostEvent where
  | read (idx : BitVec 11)
  | write (idx : BitVec 11) (v : Word)
  | reset
  deriving DecidableEq, Repr

/-- The whole state. -/
structure State where
  build : Build
  status : Status
  errCmd : Word
  osc : Vector Osc 2
  fm : Fm
  flt : Vector Filter 8
  dly : Delay
  dmemL : DelayMem
  dmemR : DelayMem
  seq : Seq
  /-- The analog input port AIN[ch] (R70). -/
  ain : Vector Word 16
  sns : Vector Sensor 2
  /-- The MODEL's own field: what the outside has asked and the block has not served yet, oldest first (log 1). -/
  port : List HostEvent
  /-- The MODEL's own field: the word the port returned at the host's latest read (log 2). -/
  readData : Word
  deriving DecidableEq, Repr

/-- Why the machine stops. The block itself has no trap (60_exceptions.md R411); both reasons belong to states
that no run reaches (42_delay.md R263). -/
inductive Fault where
  /-- A render whose pointer is outside the delay memory, where R103 gives no access. Raised by DLY_RENDER_L and
  DLY_RENDER_R. Safe: the machine stops. -/
  | delayIndex (idx : Nat)
  /-- A render of a configured delay whose capacity is 0, where R261's modulus has no value. Raised by DLY_RENDER_L
  and DLY_RENDER_R. Safe: the machine stops. -/
  | delayCapacityZero
  deriving DecidableEq, Repr

/-- Why the model has no meaning for an instruction. -/
inductive Refusal where
  /-- An instruction without a meaning in this model, by its mnemonic. Raised by exec alone, for no instruction
  of the finished model. Safe: the machine stops. -/
  | notModelled (mnemonic : String)
  deriving DecidableEq, Repr

/-! The reset state (R450). -/

def Status.reset : Status where
  errIllegal := false
  errConfig := false
  errOrder := false
  degen := false
  dlyPhase := false
  dlyCfg := false
  oscCfg := Vector.replicate 2 false

def Osc.reset : Osc := ⟨0, 0, 0, 0, 0⟩

def Fm.reset : Fm := ⟨0, 0⟩

def Filter.reset : Filter := ⟨0, 0, 0, 0, 0, 0, 0, 0, 0, 0, 0, 0, 0, 0⟩

def Delay.reset : Delay := ⟨0, 0, 0, 0, 0, 0, 0, 0, 0, 0, 0, 0⟩

def Seq.reset : Seq := ⟨0, 0, 0⟩

/-- COLCH of sensor s after reset: (s·DIM + c) mod NAIN for c below DIM (R64). -/
def resetColch (b : Build) (sn : Nat) : Vector (Fin 16) 16 :=
  Vector.ofFn fun c => if c.val < b.dim then Fin.ofNat 16 (sn * b.dim + c.val) else 0

def Sensor.reset (b : Build) (sn : Nat) : Sensor where
  calState := .idle
  calCnt := 0
  colch := resetColch b sn
  mins := Vector.replicate 16 0
  maxs := Vector.replicate 16 0
  grid := Vector.replicate 16 (Vector.replicate 16 0)
  peakVal := 0
  peakCol := 0
  peakRow := 0
  posX := 0
  posY := 0
  posZ := 0

/-- The state after reset of a block of build `b` (R450), with nothing pending on the port. -/
def State.resetOf (b : Build) : State where
  build := b
  status := Status.reset
  errCmd := 0
  osc := Vector.replicate 2 Osc.reset
  fm := Fm.reset
  flt := Vector.replicate 8 Filter.reset
  dly := Delay.reset
  dmemL := []
  dmemR := []
  seq := Seq.reset
  ain := Vector.replicate 16 0
  sns := Vector.ofFn fun sn => Sensor.reset b sn.val
  port := []
  readData := 0

/-- The machine right after reset (R450), in the build that R5 leaves OPEN. -/
def State.reset : State := State.resetOf Config.build

end Sys2Proof.Machine
end

