-- ==== Sys2Proof/Machine/Ops.lean ====
section
/-!
DEFINITION. The named operations over memory and registers: the delay memory (20_memory.md R103), the writes of one
unit's registers, and raising a condition (60_exceptions.md R402), which is all this block has of taking an exception.
There is no return from one (R412): a condition is cleared by the host (R407, `Status.clear` in Flags.lean).
-/

namespace Sys2Proof.Machine

/-! Delay memory: a list of (index, word), rising, without words of +0.0. -/

/-- `DMEM_ch[idx]`; a word nothing has written is +0.0 (R101). -/
def DelayMem.read : DelayMem → Nat → Word
  | [], _ => 0#32
  | (a, v) :: rest, i => if a = i then v else DelayMem.read rest i

/-- `DMEM_ch[idx] <- v` (R103), keeping the canonical form. -/
def DelayMem.write : DelayMem → Nat → Word → DelayMem
  | [], i, v => if v = 0#32 then [] else [(i, v)]
  | (a, u) :: rest, i, v =>
    if i < a then (if v = 0#32 then (a, u) :: rest else (i, v) :: (a, u) :: rest)
    else if i = a then (if v = 0#32 then rest else (i, v) :: rest)
    else (a, u) :: DelayMem.write rest i v

/-- Every index is at least `lo`, the indices rise strictly, and no word is +0.0. -/
def DelayMem.wfFrom : Nat → DelayMem → Bool
  | _, [] => true
  | lo, (a, v) :: rest => decide (lo ≤ a) && v != 0#32 && DelayMem.wfFrom (a + 1) rest

/-- The canonical form, with every index inside the memory (R101). -/
def DelayMem.wf (m : DelayMem) : Bool :=
  DelayMem.wfFrom 0 m && m.all fun cell => decide (cell.1 < Config.dlyDepth)

/-- The delay memory of one channel. -/
def State.dmem (s : State) : Channel → DelayMem
  | .left => s.dmemL
  | .right => s.dmemR

/-- `MemRead(ch, idx)` for an index inside the memory (R103). -/
def State.memRead (s : State) (ch : Channel) (idx : Nat) : Word := (s.dmem ch).read idx

/-! Writes of one unit's registers. -/

def State.setStatus (st : Status) (s : State) : State := { s with status := st }

def State.setOsc (k : Fin 2) (o : Osc) (s : State) : State := { s with osc := s.osc.set k.val o k.isLt }

def State.setFm (f : Fm) (s : State) : State := { s with fm := f }

def State.setFlt (i : Fin 8) (f : Filter) (s : State) : State := { s with flt := s.flt.set i.val f i.isLt }

def State.setDly (d : Delay) (s : State) : State := { s with dly := d }

def State.setSeq (q : Seq) (s : State) : State := { s with seq := q }

def State.setAin (ch : Fin 16) (v : Word) (s : State) : State := { s with ain := s.ain.set ch.val v ch.isLt }

def State.setSns (sn : Fin 2) (x : Sensor) (s : State) : State := { s with sns := s.sns.set sn.val x sn.isLt }

/-- `MemWrite(ch, idx, v)` for an index inside the memory (R103). -/
def State.memWrite (ch : Channel) (idx : Nat) (v : Word) (s : State) : State :=
  match ch with
  | .left => { s with dmemL := s.dmemL.write idx v }
  | .right => { s with dmemR := s.dmemR.write idx v }

/-! Conditions (R400). -/

/-- The conditions that record the command word (R402). -/
inductive Condition where
  | errIllegal
  | errConfig
  | errOrder
  deriving DecidableEq, Repr

/-- STATUS with the condition's sticky bit set; a bit already 1 stays 1 (R402). -/
def Status.raise (c : Condition) (st : Status) : Status :=
  match c with
  | .errIllegal => { st with errIllegal := true }
  | .errConfig => { st with errConfig := true }
  | .errOrder => { st with errOrder := true }

/-- `raise <Condition>(w)` (R402): the sticky bit is set and ERR_CMD records the command word. A meaning passes the
word of its own instruction, which is the word that was written (log 9). -/
def raise (c : Condition) (w : Word) (s : State) : State :=
  { s with status := s.status.raise c, errCmd := w }

/-- Degenerate (R402, R406): DEGEN is set when `met`; ERR_CMD is unchanged. -/
def noteDegen (met : Bool) (s : State) : State :=
  { s with status := { s.status with degen := s.status.degen || met } }

end Sys2Proof.Machine
end

