-- ==== Sys2Proof/Machine/Control.lean ====
section
/-!
DEFINITION. NOP (44_control.md).
-/

namespace Sys2Proof.Machine

/-- NOP: no state is read or written (R351). -/
def execNop (s : State) : Host.Outcome State Fault Refusal := .next s

end Sys2Proof.Machine
end

