-- ==== Sys2Proof/Syntax.lean ====
section
/-!
DEFINITION. The commands of the block, one constructor per row of the opcode table (30_encoding.md R132).
An instance field is a `Fin` of its range (R131); the row field of SNS_SAMPLE is the eight bits of ARG, and
`WellFormed` holds its bound, which depends on the build parameter DIM.
-/

namespace Sys2Proof

inductive Instr where
  /-- 0x00000000 (R351). -/
  | nop
  /-- OSC_STEP k: one `nextSample()` of oscillator k (R230). -/
  | oscStep (k : Fin 2)
  /-- FM_STEP: one audio sample of the FM pair (R232). -/
  | fmStep
  /-- FLT_CONFIG i: the low-pass `configure` of filter i (R200). -/
  | fltConfig (i : Fin 8)
  /-- FLT_APPLY i: one `apply` of filter i (R201). -/
  | fltApply (i : Fin 8)
  /-- DLY_CONFIG: the delay's `configure` (R260). -/
  | dlyConfig
  /-- DLY_RENDER_L: the left render (R261). -/
  | dlyRenderL
  /-- DLY_RENDER_R: the right render (R262). -/
  | dlyRenderR
  /-- SEQ_FRAME: one scan frame (R310). -/
  | seqFrame
  /-- SNS_TICK s: one calibration tick of sensor s (R320). -/
  | snsTick (sn : Fin 2)
  /-- SNS_SAMPLE s, row: one row read of sensor s (R321). -/
  | snsSample (sn : Fin 2) (row : BitVec 8)
  /-- SNS_RESOLVE s: one `readPosition()` of sensor s (R322). -/
  | snsResolve (sn : Fin 2)
  deriving DecidableEq, Repr

end Sys2Proof
end

