-- ==== Sys2Proof/WellFormed.lean ====
section
/-!
DEFINITION. Which instructions have an encoding in a block of matrix dimension `dim` (30_encoding.md R131):
the row of SNS_SAMPLE is below DIM; every other operand is in range by its type.
-/

namespace Sys2Proof

/-- The range conditions of R131 and R132. -/
def Instr.wellFormed (dim : Nat) : Instr → Bool
  | .snsSample _ row => decide (row.toNat < dim)
  | .nop | .oscStep _ | .fmStep | .fltConfig _ | .fltApply _ | .dlyConfig | .dlyRenderL | .dlyRenderR
  | .seqFrame | .snsTick _ | .snsResolve _ => true

/-- `wellFormed` as a proposition. -/
abbrev WellFormed (dim : Nat) (i : Instr) : Prop := i.wellFormed dim = true

end Sys2Proof
end

