-- ==== Sys2Proof/Decode.lean ====
section
/-!
DEFINITION. The command word CMDW = OPC[31:24] RSV[23:16] ARG[15:8] INST[7:0] (30_encoding.md R130), its decoder,
total on every word (R133), and the encoder from the same table (R132).
-/

namespace Sys2Proof

/-- Why a word is no legal command (R134). -/
inductive Illegal where
  /-- RSV is not 0. -/
  | reserved
  /-- OPC is none of the twelve. -/
  | opcode
  /-- A bit outside the command's fields is 1; an instance number out of range is one of these. -/
  | strayBits
  /-- SNS_SAMPLE with row ≥ DIM. -/
  | row
  deriving DecidableEq, Repr

/-- OPC, bits 31:24 (R130). -/
def opcOf (w : Word) : BitVec 8 := w.extractLsb' 24 8

/-- RSV, bits 23:16 (R130). -/
def rsvOf (w : Word) : BitVec 8 := w.extractLsb' 16 8

/-- ARG, bits 15:8 (R130). -/
def argOf (w : Word) : BitVec 8 := w.extractLsb' 8 8

/-- INST, bits 7:0 (R130). -/
def instOf (w : Word) : BitVec 8 := w.extractLsb' 0 8

/-- A command with no operand: ARG and INST are 0. -/
def decodePlain (w : Word) (i : Instr) : Except Illegal Instr :=
  if argOf w = 0 ∧ instOf w = 0 then .ok i else .error .strayBits

/-- A command whose INST selects one of two units and whose ARG is 0. -/
def decodePair (w : Word) (mk : Fin 2 → Instr) : Except Illegal Instr :=
  if h : argOf w = 0 ∧ (instOf w).toNat < 2 then .ok (mk ⟨(instOf w).toNat, h.2⟩) else .error .strayBits

/-- A command whose INST selects one of the eight filters and whose ARG is 0. -/
def decodeFilter (w : Word) (mk : Fin 8 → Instr) : Except Illegal Instr :=
  if h : argOf w = 0 ∧ (instOf w).toNat < 8 then .ok (mk ⟨(instOf w).toNat, h.2⟩) else .error .strayBits

/-- SNS_SAMPLE: INST selects the sensor and ARG is the row, below DIM. -/
def decodeSample (dim : Nat) (w : Word) : Except Illegal Instr :=
  if h : (instOf w).toNat < 2 then
    if (argOf w).toNat < dim then .ok (.snsSample ⟨(instOf w).toNat, h⟩ (argOf w)) else .error .row
  else .error .strayBits

/-- The decoder of R133 for a block of matrix dimension `dim`. -/
def decode (dim : Nat) (w : Word) : Except Illegal Instr :=
  if rsvOf w ≠ 0 then .error .reserved
  else if opcOf w = 0x00 then decodePlain w .nop
  else if opcOf w = 0x01 then decodePair w .oscStep
  else if opcOf w = 0x02 then decodePlain w .fmStep
  else if opcOf w = 0x10 then decodeFilter w .fltConfig
  else if opcOf w = 0x11 then decodeFilter w .fltApply
  else if opcOf w = 0x20 then decodePlain w .dlyConfig
  else if opcOf w = 0x21 then decodePlain w .dlyRenderL
  else if opcOf w = 0x22 then decodePlain w .dlyRenderR
  else if opcOf w = 0x30 then decodePlain w .seqFrame
  else if opcOf w = 0x31 then decodePair w .snsTick
  else if opcOf w = 0x32 then decodeSample dim w
  else if opcOf w = 0x33 then decodePair w .snsResolve
  else .error .opcode

/-- The word of the fields OPC, ARG and INST, with RSV 0 (R130). -/
def cmdWord (opc arg inst : BitVec 8) : Word := opc ++ (0 : BitVec 8) ++ arg ++ inst

/-- The word of a well-formed command (R132). -/
def encode : Instr → Word
  | .nop => cmdWord 0x00 0 0
  | .oscStep k => cmdWord 0x01 0 (BitVec.ofNat 8 k.val)
  | .fmStep => cmdWord 0x02 0 0
  | .fltConfig i => cmdWord 0x10 0 (BitVec.ofNat 8 i.val)
  | .fltApply i => cmdWord 0x11 0 (BitVec.ofNat 8 i.val)
  | .dlyConfig => cmdWord 0x20 0 0
  | .dlyRenderL => cmdWord 0x21 0 0
  | .dlyRenderR => cmdWord 0x22 0 0
  | .seqFrame => cmdWord 0x30 0 0
  | .snsTick sn => cmdWord 0x31 0 (BitVec.ofNat 8 sn.val)
  | .snsSample sn row => cmdWord 0x32 row (BitVec.ofNat 8 sn.val)
  | .snsResolve sn => cmdWord 0x33 0 (BitVec.ofNat 8 sn.val)

/-- The word that the opcode table's bits stand for: the table numbers bits as the word does, and a bit above
`nbits` is 0 (every row of this table has 32; log 17). -/
def tableWord (nbits w : Nat) : Word := BitVec.ofNat 32 (w % 2 ^ nbits)

/-- The instruction this decoder reads from the bits of an opcode-table row, in the build that `State.reset` has. -/
def decodeTableWord (nbits w : Nat) : Option Instr :=
  match decode Config.build.dim (tableWord nbits w) with
  | .ok i => some i
  | .error _ => none

end Sys2Proof
end

