-- ==== Sys2Proof/Machine/Float.lean ====
section
/-!
DEFINITION. The block's binary32 arithmetic on 32-bit patterns (00_scope.md R9): the exact result, then one
rounding to nearest with ties to even, subnormals kept, overflow to infinity, one canonical NaN.
-/

namespace Sys2Proof.Machine

/-- The sign, bit 31. -/
def fsign (x : Word) : Bool := x.msb

/-- The biased exponent, bits 30:23. -/
def fexp (x : Word) : Nat := x.toNat / 2 ^ 23 % 256

/-- The fraction, bits 22:0. -/
def ffrac (x : Word) : Nat := x.toNat % 2 ^ 23

def isNaN (x : Word) : Bool := fexp x == 255 && ffrac x != 0

def isInf (x : Word) : Bool := fexp x == 255 && ffrac x == 0

def isFinite (x : Word) : Bool := fexp x != 255

/-- +0.0 or −0.0. -/
def isZero (x : Word) : Bool := fexp x == 0 && ffrac x == 0

/-- Every NaN result is this one (R9). -/
def qNaN : Word := 0x7FC00000

def fzero (neg : Bool) : Word := if neg then 0x80000000 else 0x00000000

def finf (neg : Bool) : Word := if neg then 0xFF800000 else 0x7F800000

/-- The integer significand of a finite pattern: its value is `± fsig x · 2 ^ fscale x`. -/
def fsig (x : Word) : Nat := if fexp x = 0 then ffrac x else ffrac x + 2 ^ 23

def fscale (x : Word) : Int := (max (fexp x) 1 : Nat) - 150

/-- The significand with its sign. -/
def fsigned (x : Word) : Int := if fsign x then -(fsig x : Int) else (fsig x : Int)

/-- The quotient of naturals rounded to the nearest natural, ties to even. -/
def divNearestEven (n d : Nat) : Nat :=
  let q := n / d
  let r := n % d
  if d < 2 * r ∨ (2 * r = d ∧ q % 2 = 1) then q + 1 else q

/-- `⌊log₂ (n / d)⌋` for positive `n` and `d`. -/
def ratLog2 (n d : Nat) : Int :=
  let l : Int := (Nat.log2 n : Int) - (Nat.log2 d : Int)
  if d * 2 ^ l.toNat ≤ n * 2 ^ (-l).toNat then l else l - 1

/-- The binary32 nearest to `± (n / d) · 2 ^ e`, ties to even, for positive `n` and `d` (R9).
The unit of the result is `2 ^ t`: 24 significant bits, or the subnormal unit `2 ^ (-149)`.
A significand rounded up to `2 ^ 24` carries into the exponent by the addition itself. -/
def roundRat (neg : Bool) (n d : Nat) (e : Int) : Word :=
  let t : Int := max (ratLog2 n d + e - 23) (-149)
  let q := divNearestEven (n * 2 ^ (e - t).toNat) (d * 2 ^ (t - e).toNat)
  let bits := (t + 149).toNat * 2 ^ 23 + q
  if 0x7F800000 ≤ bits then finf neg
  else BitVec.ofNat 32 (if neg then bits + 2 ^ 31 else bits)

/-- The binary32 nearest to the integer `m` times `2 ^ e`; an exact zero takes the sign `zneg`. -/
def roundInt (zneg : Bool) (m : Int) (e : Int) : Word :=
  if m = 0 then fzero zneg else roundRat (decide (m < 0)) m.natAbs 1 e

/-- `−x` of a number: bit 31 flipped. -/
def fneg (x : Word) : Word := x ^^^ 0x80000000

/-- `fadd(a, b)` (R9). The sum is exact in units of the smaller scale; an exact zero sum is +0.0 unless both
operands are negative (IEEE, round to nearest; log 12). -/
def fadd (a b : Word) : Word :=
  if isNaN a || isNaN b then qNaN
  else if isInf a then (if isInf b && fsign a != fsign b then qNaN else a)
  else if isInf b then b
  else
    let e := min (fscale a) (fscale b)
    roundInt (fsign a && fsign b)
      (fsigned a * 2 ^ (fscale a - e).toNat + fsigned b * 2 ^ (fscale b - e).toNat) e

/-- `fsub(a, b)` (R9): the exact difference rounded once. -/
def fsub (a b : Word) : Word := fadd a (fneg b)

/-- `fmul(a, b)` (R9). -/
def fmul (a b : Word) : Word :=
  let neg := fsign a != fsign b
  if isNaN a || isNaN b then qNaN
  else if isInf a || isInf b then (if isZero a || isZero b then qNaN else finf neg)
  else if isZero a || isZero b then fzero neg
  else roundRat neg (fsig a * fsig b) 1 (fscale a + fscale b)

/-- `fdiv(a, b)` (R9): x/0 is an infinity for non-zero x, 0/0 and inf/inf are NaN. -/
def fdiv (a b : Word) : Word :=
  let neg := fsign a != fsign b
  if isNaN a || isNaN b then qNaN
  else if isInf a then (if isInf b then qNaN else finf neg)
  else if isInf b then fzero neg
  else if isZero b then (if isZero a then qNaN else finf neg)
  else if isZero a then fzero neg
  else roundRat neg (fsig a) (fsig b) (fscale a - fscale b)

/-- The order of the numbers (NaN apart) as integers: the magnitude bits with the sign; +0.0 and −0.0 are both 0. -/
def fkey (x : Word) : Int :=
  if fsign x then -((x.toNat % 2 ^ 31 : Nat) : Int) else ((x.toNat % 2 ^ 31 : Nat) : Int)

/-- `a < b`, the IEEE ordered comparison: false when either operand is NaN (R9). -/
def flt (a b : Word) : Bool := !isNaN a && !isNaN b && decide (fkey a < fkey b)

/-- `a > b` (R9). -/
def fgt (a b : Word) : Bool := flt b a

/-- `a >= b` (R9). -/
def fge (a b : Word) : Bool := !isNaN a && !isNaN b && decide (fkey b ≤ fkey a)

/-- `a == b` (R9); +0.0 == −0.0. -/
def feq (a b : Word) : Bool := !isNaN a && !isNaN b && decide (fkey a = fkey b)

/-- `itof(n)`: the binary32 nearest to the integer (R9). -/
def itof (n : Int) : Word := roundInt false n 0

/-- `ftoi_trunc(v)` of a finite binary32: its fraction discarded, toward zero (R9). -/
def ftoiTrunc (v : Word) : Int :=
  let m := fsig v * 2 ^ (fscale v).toNat / 2 ^ (-fscale v).toNat
  if fsign v then -(m : Int) else (m : Int)

/-! The named constants (R10). -/

def TWO_PI : Word := 0x40C90FDB
def PI : Word := 0x40490FDB
def SQRT2 : Word := 0x3FB504F3
def ONE : Word := 0x3F800000
def TWO : Word := 0x40000000
def ZERO : Word := 0x00000000

/-- `clamp01(v)` (R11): NaN and −0.0 pass unchanged. -/
def clamp01 (v : Word) : Word :=
  if flt v ZERO then ZERO else if fgt v ONE then ONE else v

end Sys2Proof.Machine
end

