-- ==== Sys2Proof/Machine/Operands.lean ====
section
/-!
DEFINITION. What the commands read: the two OPEN functions (00_scope.md R6), the columns of a sensor, its analog
readings (43_sequencer.md R300), the effective row (R321), grid cells and the filters wired to a sensor (R2).
-/

namespace Sys2Proof.Machine

/-- NUM_SIN: NaN for a NaN or infinite operand, the zero itself for a zero, free elsewhere (R6). -/
def numSin (x : Word) : Word :=
  if isNaN x || isInf x then qNaN else if isZero x then x else Config.numSinFree x

/-- NUM_TAN: NaN for a NaN or infinite operand, +0.0 for +0.0, free elsewhere, −0.0 included (R6, log 4). -/
def numTan (x : Word) : Word :=
  if isNaN x || isInf x then qNaN else if x = ZERO then ZERO else Config.numTanFree x

/-- The columns 0 to DIM − 1 in ascending order, the order of every scan (R320, R321). -/
def columns (b : Build) : List (Fin 16) :=
  [0, 1, 2, 3, 4, 5, 6, 7, 8, 9, 10, 11, 12, 13, 14, 15].filter fun c => decide (c.val < b.dim)

/-- `Ain(s, c)`: the reading of the channel assigned to column c (R300). -/
def Sensor.reading (ain : Vector Word 16) (x : Sensor) (c : Fin 16) : Word := ain[x.colch[c.val].val]

/-- The effective row `(row − ROW_READ_LAG) mod DIM` (R321). -/
def effectiveRow (b : Build) (row : Nat) : Fin 16 :=
  ⟨(((row : Int) - b.lag) % b.dim).toNat, by
    have h1 := b.dim_ge
    have h2 := b.dim_le
    have h3 := Int.emod_lt_of_pos ((row : Int) - b.lag) (b := (b.dim : Int)) (by omega)
    omega⟩

/-- GRID[c][r]; +0.0 outside the sixteen rows and columns, which no run reads (log 16). -/
def Sensor.cell (x : Sensor) (c r : Nat) : Word :=
  if h : c < 16 ∧ r < 16 then (x.grid[c]'h.1)[r]'h.2 else 0

/-- GRID[c][r] <- v. -/
def Sensor.setCell (c r : Fin 16) (v : Word) (x : Sensor) : Sensor :=
  { x with grid := x.grid.set c.val (x.grid[c.val].set r.val v r.isLt) c.isLt }

/-- FLT(3s + a): the filter of sensor s's axis a, 0 for x, 1 for y, 2 for z (R2). -/
def sensorFilter (sn : Fin 2) (axis : Fin 3) : Fin 8 := ⟨3 * sn.val + axis.val, by omega⟩

end Sys2Proof.Machine
end

