-- ==== Sys2Proof/Machine/Delayline.lean ====
section
/-!
DEFINITION. The delay-line commands (42_delay.md).
-/

namespace Sys2Proof.Machine

/-- The capacity and the length DLY_CONFIG takes from FS and SEC, none where it raises ErrConfig (R260). -/
def Delay.plan (d : Delay) : Option (Int × Int) :=
  let prod := fmul d.fs d.sec
  if isFinite d.fs = false ∨ isFinite prod = false then none
  else
    let cap := ftoiTrunc d.fs
    let len := ftoiTrunc prod
    if cap < 1 ∨ (Config.dlyDepth : Int) < cap then none
    else if len < -(2 ^ 31) ∨ 2 ^ 31 - 1 < len then none
    else some (cap, len)

/-- The delay registers after a DLY_CONFIG that succeeds with this capacity and length (R260). -/
def Delay.configured (d : Delay) (cap len : Int) : Delay :=
  let rp := BitVec.ofInt 32 ((0 - len) % cap)
  { d with cap := BitVec.ofInt 32 cap, len := BitVec.ofInt 32 len, wpL := 0, wpR := 0, rpL := rp, rpR := rp }

/-- DLY_CONFIG (R260). -/
def execDlyConfig (s : State) : Host.Outcome State Fault Refusal :=
  match s.dly.plan with
  | none => .next (raise .errConfig (encode .dlyConfig) s)
  | some (cap, len) =>
    .next ((s.setDly (s.dly.configured cap len)).setStatus { s.status with dlyPhase := false, dlyCfg := true })

/-- A pointer advanced by one sample, modulo CAP (R261, R262). -/
def Delay.advance (d : Delay) (p : Word) : Word := BitVec.ofNat 32 ((p.toNat + 1) % d.cap.toNat)

/-- The fault of a render that uses these pointers, in a state no run reaches (R103, R263; log 6). -/
def Delay.renderFault (d : Delay) (pointers : List Word) : Option Fault :=
  if d.cap = 0 then some .delayCapacityZero
  else (pointers.find? fun p => decide (Config.dlyDepth ≤ p.toNat)).map fun p => .delayIndex p.toNat

/-- ErrOrder of a render that is not in turn, which still executes (R261, R262). -/
def checkTurn (inTurn : Bool) (w : Word) (s : State) : State := if inTurn then s else raise .errOrder w s

/-- The effect of the left render (R261): the read comes before either write. -/
def renderLeft (s : State) : State :=
  let d := s.dly
  let v := s.memRead .left d.rpL.toNat
  let s1 := s.memWrite .left d.wpL.toNat d.input
  let s2 := s1.memWrite .right d.wpR.toNat v
  (s2.setDly { d with rpL := d.advance d.rpL, wpR := d.advance d.wpR, outL := v }).setStatus
    { s.status with dlyPhase := true }

/-- The effect of the right render (R262): the feedback is added to what the left word holds. -/
def renderRight (s : State) : State :=
  let d := s.dly
  let v := s.memRead .right d.rpR.toNat
  let s1 := s.memWrite .left d.wpL.toNat (fadd (s.memRead .left d.wpL.toNat) (fmul d.gain v))
  (s1.setDly { d with rpR := d.advance d.rpR, wpL := d.advance d.wpL, outR := v }).setStatus
    { s.status with dlyPhase := false }

/-- DLY_RENDER_L (R261). -/
def execDlyRenderL (s : State) : Host.Outcome State Fault Refusal :=
  if s.status.dlyCfg = false then .next (raise .errOrder (encode .dlyRenderL) s)
  else
    match s.dly.renderFault [s.dly.rpL, s.dly.wpL, s.dly.wpR] with
    | some f => .fault f
    | none => .next (renderLeft (checkTurn (!s.status.dlyPhase) (encode .dlyRenderL) s))

/-- DLY_RENDER_R (R262). -/
def execDlyRenderR (s : State) : Host.Outcome State Fault Refusal :=
  if s.status.dlyCfg = false then .next (raise .errOrder (encode .dlyRenderR) s)
  else
    match s.dly.renderFault [s.dly.rpR, s.dly.wpL] with
    | some f => .fault f
    | none => .next (renderRight (checkTurn s.status.dlyPhase (encode .dlyRenderR) s))

end Sys2Proof.Machine
end

