-- ==== Sys2Proof/Machine/Lowpass.lean ====
section
/-!
DEFINITION. The filter step and the filter commands (40_filter.md).
-/

namespace Sys2Proof.Machine

/-- The output of LpApply on the input v: +0.0 on a bare filter, A0 = ±0.0 (R199). A filter configured with FC = 0 is
not bare and takes the formula, which gives −0.0 or NaN on some inputs where R200's text says +0.0 (log 19). -/
def Filter.lpOut (f : Filter) (v : Word) : Word :=
  let num := fadd (fadd (fmul f.b0 v) (fmul f.b1 f.x1)) (fmul f.b2 f.x2)
  let fb := fadd (fmul f.a1 f.y1) (fmul f.a2 f.y2)
  if feq f.a0 ZERO then ZERO else fdiv (fsub num fb) f.a0

/-- The history after LpApply on the input v (R199). -/
def Filter.lpShift (f : Filter) (v : Word) : Filter :=
  { f with x2 := f.x1, x1 := v, y2 := f.y1, y1 := f.lpOut v }

/-- LpApply(i, v): the output and the state it leaves (R199). -/
def lpApply (i : Fin 8) (v : Word) (s : State) : Word × State :=
  ((s.flt[i.val]).lpOut v, s.setFlt i ((s.flt[i.val]).lpShift v))

/-- K of FLT_CONFIG: NUM_TAN(PI·FC / FS) (R200). -/
def Filter.tangent (f : Filter) : Word := numTan (fdiv (fmul PI f.fc) f.fs)

/-- The coefficients of FLT_CONFIG from K, and the history zeroed (R200). -/
def Filter.design (k : Word) (f : Filter) : Filter :=
  let k2 := fmul k k
  let sk := fmul SQRT2 k
  { f with
    b0 := k2
    b1 := fmul TWO k2
    b2 := k2
    a0 := fadd (fadd k2 sk) ONE
    a1 := fmul TWO (fsub k2 ONE)
    a2 := fadd (fsub k2 sk) ONE
    x1 := ZERO
    x2 := ZERO
    y1 := ZERO
    y2 := ZERO }

/-- FLT_CONFIG i (R200). -/
def execFltConfig (i : Fin 8) (s : State) : Host.Outcome State Fault Refusal :=
  .next (s.setFlt i ((s.flt[i.val]).design (s.flt[i.val]).tangent))

/-- FLT_APPLY i (R201). -/
def execFltApply (i : Fin 8) (s : State) : Host.Outcome State Fault Refusal :=
  let r := lpApply i (s.flt[i.val]).input s
  .next (r.2.setFlt i { r.2.flt[i.val] with output := r.1 })

end Sys2Proof.Machine
end

