-- ==== Sys2Proof/Machine/Oscillator.lean ====
section
/-!
DEFINITION. The oscillator and FM commands (41_oscillator.md).
-/

namespace Sys2Proof.Machine

/-- The output of NextSample: AMP·sin(PHASE), from the phase before the advance (R229). -/
def Osc.sample (o : Osc) : Word := fmul o.amp (numSin o.phase)

/-- The phase increment 2π·FREQ / FS (R229). -/
def Osc.increment (o : Osc) : Word := fdiv (fmul TWO_PI o.freq) o.fs

/-- One conditional wrap in each direction, with the guard that keeps the result below TWO_PI (R229). -/
def wrapPhase (p : Word) : Word :=
  if fge p TWO_PI then fsub p TWO_PI
  else if flt p ZERO then
    let q := fadd p TWO_PI
    if fge q TWO_PI then ZERO else q
  else p

/-- The oscillator after NextSample (R229). -/
def Osc.next (o : Osc) : Osc :=
  { o with phase := wrapPhase (fadd o.phase o.increment), out := o.sample }

/-- NextSample(k) (R229). -/
def nextSample (k : Fin 2) (s : State) : State := s.setOsc k (s.osc[k.val]).next

/-- OSC_STEP k (R230). -/
def execOscStep (k : Fin 2) (s : State) : Host.Outcome State Fault Refusal :=
  if s.status.oscCfg[k.val] = false then .next (raise .errOrder (encode (.oscStep k)) s)
  else .next (nextSample k s)

/-- The effect of FM_STEP on configured oscillators (R232): the modulator's step, its output added to CAR_BASE as
the carrier's frequency, the carrier's step with that frequency, and the dry sample. -/
def fmAdvance (s : State) : State :=
  let s1 := nextSample 1 s
  let m := s1.osc[1].out
  let s2 := s1.setOsc 0 { s1.osc[0] with freq := fadd s1.fm.carBase m }
  let s3 := nextSample 0 s2
  s3.setFm { s3.fm with fmOut := s3.osc[0].out }

/-- FM_STEP (R232). -/
def execFmStep (s : State) : Host.Outcome State Fault Refusal :=
  if s.status.oscCfg[0] = false ∨ s.status.oscCfg[1] = false then
    .next (raise .errOrder (encode .fmStep) s)
  else .next (fmAdvance s)

end Sys2Proof.Machine
end

