-- ==== Sys2Proof/Machine/Sequencer.lean ====
section
/-!
DEFINITION. The scan sequencer and matrix-sensor commands (43_sequencer.md).
-/

namespace Sys2Proof.Machine

/-! Calibration (R320). -/

/-- One column scan of a calibration phase: each stored extreme is raised to a reading that exceeds it. -/
def Sensor.raiseAll (b : Build) (ain : Vector Word 16) (x : Sensor) (stored : Vector Word 16) : Vector Word 16 :=
  (columns b).foldl
    (fun a c => if fgt (x.reading ain c) a[c.val] then a.set c.val (x.reading ain c) c.isLt else a) stored

/-- The end of a calibration tick in the phase `here`: the count, and the change to `after` when it reaches
CAL_DUR. The count is compared as an integer, so it never wraps (log 10). -/
def Sensor.countTick (dur : Word) (here after : CalState) (x : Sensor) : Sensor :=
  if dur.toNat ≤ x.calCnt.toNat + 1 then { x with calState := after, calCnt := 0 }
  else { x with calState := here, calCnt := x.calCnt + 1 }

/-- Tick (R320): Idle falls through into MeasuringMinima, Done changes nothing. -/
def Sensor.tick (b : Build) (dur : Word) (ain : Vector Word 16) (x : Sensor) : Sensor :=
  match x.calState with
  | .idle | .measuringMinima =>
    { x with mins := x.raiseAll b ain x.mins }.countTick dur .measuringMinima .measuringMaxima
  | .measuringMaxima =>
    { x with maxs := x.raiseAll b ain x.maxs }.countTick dur .measuringMaxima .done
  | .done => x

/-- Tick(s) on the whole state (R320). -/
def tick (sn : Fin 2) (s : State) : State :=
  s.setSns sn ((s.sns[sn.val]).tick s.build s.seq.calDur s.ain)

/-- SNS_TICK s (R320). -/
def execSnsTick (sn : Fin 2) (s : State) : Host.Outcome State Fault Refusal := .next (tick sn s)

/-! The row read (R321). -/

/-- Normalize(s, c, raw): not clamped, +0.0 on a zero range (R301). -/
def Sensor.normalize (x : Sensor) (c : Fin 16) (raw : Word) : Word :=
  let rng := fsub x.maxs[c.val] x.mins[c.val]
  if feq rng ZERO then ZERO else fdiv (fsub raw x.mins[c.val]) rng

/-- One column of a row read: the grid cell, and the peak when the value exceeds it (R321). -/
def Sensor.sampleColumn (ain : Vector Word 16) (er : Fin 16) (x : Sensor) (c : Fin 16) : Sensor :=
  let v := x.normalize c (x.reading ain c)
  let y := x.setCell c er v
  if fgt v y.peakVal then { y with peakVal := v, peakCol := c, peakRow := er } else y

/-- Sample (R321): every column in ascending order. -/
def Sensor.sample (b : Build) (ain : Vector Word 16) (row : Nat) (x : Sensor) : Sensor :=
  (columns b).foldl (Sensor.sampleColumn ain (effectiveRow b row)) x

/-- Sample(s, row) on the whole state (R321). -/
def sampleRow (sn : Fin 2) (row : Nat) (s : State) : State :=
  s.setSns sn ((s.sns[sn.val]).sample s.build s.ain row)

/-- SNS_SAMPLE s, row (R321). A row not below DIM is in no command word and is taken modulo DIM (log 8). -/
def execSnsSample (sn : Fin 2) (row : BitVec 8) (s : State) : Host.Outcome State Fault Refusal :=
  if (s.sns[sn.val]).calState ≠ .done then .next (raise .errOrder (encode (.snsSample sn row)) s)
  else .next (sampleRow sn row.toNat s)

/-! The resolver (R322). -/

/-- Interp(α, β, γ): the offset, and whether the denominator was ±0.0 (R302). Rounded as R302 writes it, it has neither
the antisymmetry (log 15) nor the open bound of a strict peak (log 21) of R303 for every operand. -/
def interp (α β γ : Word) : Word × Bool :=
  let den := fmul TWO (fadd (fsub γ (fmul TWO β)) α)
  let num := fsub α γ
  if feq den ZERO then (ZERO, true) else (fdiv num den, false)

/-- A clamped coordinate from the peak's index and the cells around it (R322). -/
def axisPosition (b : Build) (idx : Nat) (α β γ : Word) : Word × Bool :=
  let o := interp α β γ
  (clamp01 (fdiv (fadd (itof idx) o.1) (itof ((b.dim : Int) - 1))), o.2)

/-- x before smoothing: the peak's row, columns PC − 1, PC, PC + 1, an edge neighbour being +0.0 (R322). -/
def Sensor.rawX (b : Build) (x : Sensor) : Word × Bool :=
  let c := x.peakCol.val
  let r := x.peakRow.val
  axisPosition b c (if 0 < c then x.cell (c - 1) r else ZERO) (x.cell c r)
    (if c < b.dim - 1 then x.cell (c + 1) r else ZERO)

/-- y before smoothing: the peak's column, rows PR − 1, PR, PR + 1, an edge neighbour being +0.0 (R322). -/
def Sensor.rawY (b : Build) (x : Sensor) : Word × Bool :=
  let c := x.peakCol.val
  let r := x.peakRow.val
  axisPosition b r (if 0 < r then x.cell c (r - 1) else ZERO) (x.cell c r)
    (if r < b.dim - 1 then x.cell c (r + 1) else ZERO)

/-- Resolve(s) (R322): the three filter steps in the order x, y, z, the position, the tracker's reset and DEGEN. -/
def resolve (sn : Fin 2) (s : State) : State :=
  let x := s.sns[sn.val]
  let rx := x.rawX s.build
  let ry := x.rawY s.build
  let fx := lpApply (sensorFilter sn 0) rx.1 s
  let fy := lpApply (sensorFilter sn 1) ry.1 fx.2
  let fz := lpApply (sensorFilter sn 2) x.peakVal fy.2
  (noteDegen (rx.2 || ry.2) fz.2).setSns sn
    { x with posX := fx.1, posY := fy.1, posZ := fz.1, peakVal := ZERO, peakCol := 0, peakRow := 0 }

/-- SNS_RESOLVE s (R322). -/
def execSnsResolve (sn : Fin 2) (s : State) : Host.Outcome State Fault Refusal :=
  if (s.sns[sn.val]).calState ≠ .done then .next (raise .errOrder (encode (.snsResolve sn)) s)
  else .next (resolve sn s)

/-! The frame (R310). -/

/-- A frame with both sensors Done: row ROW of both, and after the last row both resolved (R310). -/
def samplingFrame (s : State) : State :=
  let s1 := sampleRow 1 s.seq.row.val (sampleRow 0 s.seq.row.val s)
  if s.seq.row.val = s.build.dim - 1 then
    let s2 := resolve 1 (resolve 0 s1)
    s2.setSeq { s2.seq with row := 0, cycles := s2.seq.cycles + 1 }
  else s1.setSeq { s1.seq with row := s1.seq.row + 1 }

/-- SEQ_FRAME (R310). -/
def execSeqFrame (s : State) : Host.Outcome State Fault Refusal :=
  if s.sns[0].calState ≠ .done then .next (tick 0 s)
  else if s.sns[1].calState ≠ .done then .next (tick 1 s)
  else .next (samplingFrame s)

end Sys2Proof.Machine
end

