-- ==== Sys2Proof/Machine/Dispatch.lean ====
section
/-!
DEFINITION. The dispatch of a decoded command to its meaning (44_control.md R350).
-/

namespace Sys2Proof.Machine

def exec (i : Instr) (s : State) : Host.Outcome State Fault Refusal :=
  match i with
  | .nop => Sys2Proof.Machine.execNop s
  | .oscStep k => Sys2Proof.Machine.execOscStep k s
  | .fmStep => Sys2Proof.Machine.execFmStep s
  | .fltConfig n => Sys2Proof.Machine.execFltConfig n s
  | .fltApply n => Sys2Proof.Machine.execFltApply n s
  | .dlyConfig => Sys2Proof.Machine.execDlyConfig s
  | .dlyRenderL => Sys2Proof.Machine.execDlyRenderL s
  | .dlyRenderR => Sys2Proof.Machine.execDlyRenderR s
  | .seqFrame => Sys2Proof.Machine.execSeqFrame s
  | .snsTick sn => Sys2Proof.Machine.execSnsTick sn s
  | .snsSample sn row => Sys2Proof.Machine.execSnsSample sn row s
  | .snsResolve sn => Sys2Proof.Machine.execSnsResolve sn s

end Sys2Proof.Machine
end

