-- ==== Sys2Proof/Machine/Flags.lean ====
section
/-!
DEFINITION. STATUS and SEQ_STATE as the words the host reads, and the W1C write of STATUS (10_state.md R33, R55).
-/

namespace Sys2Proof.Machine

/-- One flag at its bit position. -/
def flagAt (pos : Nat) (b : Bool) : Word := if b then 1#32 <<< pos else 0

/-- STATUS as a word; bits [7:4] and [31:12] read 0 (R33). -/
def Status.toWord (st : Status) : Word :=
  flagAt 0 st.errIllegal ||| flagAt 1 st.errConfig ||| flagAt 2 st.errOrder ||| flagAt 3 st.degen
    ||| flagAt 8 st.dlyPhase ||| flagAt 9 st.dlyCfg ||| flagAt 10 st.oscCfg[0] ||| flagAt 11 st.oscCfg[1]

/-- A host write of STATUS: each sticky bit [3:0] written as 1 is cleared, nothing else changes (R33). -/
def Status.clear (v : Word) (st : Status) : Status :=
  { st with
    errIllegal := st.errIllegal && !v.getLsbD 0
    errConfig := st.errConfig && !v.getLsbD 1
    errOrder := st.errOrder && !v.getLsbD 2
    degen := st.degen && !v.getLsbD 3 }

/-- The encoding of CAL_STATE (R60). -/
def CalState.code : CalState → BitVec 2
  | .idle => 0
  | .measuringMinima => 1
  | .measuringMaxima => 2
  | .done => 3

/-- `isCalibrating()`: not Done (R55). -/
def CalState.calibrating (c : CalState) : Bool := c != .done

/-- SEQ_STATE: [1:0] and [3:2] the calibration states, [11:8] ROW, [16] and [17] the calibrating bits (R55). -/
def seqStateWord (s : State) : Word :=
  let c0 := s.sns[0].calState
  let c1 := s.sns[1].calState
  (c0.code.setWidth 32) ||| (c1.code.setWidth 32 <<< 2) ||| (BitVec.ofNat 32 s.seq.row.val <<< 8)
    ||| flagAt 16 c0.calibrating ||| flagAt 17 c1.calibrating

/-- PEAK_LOC: [3:0] the peak column, [11:8] the peak row (R63). -/
def Sensor.peakLocWord (x : Sensor) : Word :=
  BitVec.ofNat 32 x.peakCol.val ||| (BitVec.ofNat 32 x.peakRow.val <<< 8)

/-- The row-drive line ROW_DRV[r]: high exactly when r is ROW (R72). -/
def rowDrive (s : State) (r : Fin 16) : Bool := decide (r.val < s.build.dim) && r == s.seq.row

end Sys2Proof.Machine
end

