-- ==== Sys2Proof/Machine/Port.lean ====
section
/-!
DEFINITION. The register map of the host port (10_state.md R36): which register a word index names, what a read
of it returns, and what a write of it does. The write of CMD is in Command.lean.
-/

namespace Sys2Proof.Machine

inductive OscReg where
  | freq | amp | fs | phase | out
  deriving DecidableEq, Repr

inductive FltReg where
  | fs | fc | input | output | b0 | b1 | b2 | a0 | a1 | a2 | x1 | x2 | y1 | y2
  deriving DecidableEq, Repr

inductive DlyReg where
  | fs | sec | gain | input | outL | outR | cap | len | wpL | rpL | wpR | rpR
  deriving DecidableEq, Repr

inductive SnsReg where
  | posX | posY | posZ | peakVal | peakLoc | calCnt | calState
  deriving DecidableEq, Repr

/-- The registers of R36. The pressure-gate threshold, the carrier base tuning and the audio samples per scan frame, which
R5 calls register values, have none there (log 20). -/
inductive Reg where
  | id | hwcfg | dlyDepth | status | cmd | errCmd
  | osc (k : Fin 2) (f : OscReg)
  | carBase | fmOut
  | flt (i : Fin 8) (f : FltReg)
  | dly (f : DlyReg)
  | seqState | calDur | cycles
  | ain (ch : Fin 16)
  | sns (sn : Fin 2) (f : SnsReg)
  | colch (sn : Fin 2) (c : Fin 16)
  | min (sn : Fin 2) (c : Fin 16)
  | max (sn : Fin 2) (c : Fin 16)
  | grid (sn : Fin 2) (c r : Fin 16)
  deriving DecidableEq, Repr

/-! The map from word index to register: each list is in the order of the offsets of R36. -/

def globalRegs : List Reg := [.id, .hwcfg, .dlyDepth, .status, .cmd, .errCmd]

def oscRegs : List OscReg := [.freq, .amp, .fs, .phase, .out]

def fmRegs : List Reg := [.carBase, .fmOut]

def fltRegs : List FltReg :=
  [.fs, .fc, .input, .output, .b0, .b1, .b2, .a0, .a1, .a2, .x1, .x2, .y1, .y2]

def dlyRegs : List DlyReg :=
  [.fs, .sec, .gain, .input, .outL, .outR, .cap, .len, .wpL, .rpL, .wpR, .rpR]

def seqRegs : List Reg := [.seqState, .calDur, .cycles]

def snsRegs : List SnsReg := [.posX, .posY, .posZ, .peakVal, .peakLoc, .calCnt, .calState]

/-- The register of sensor s at byte offset `o` from the sensor's base (R36). -/
def snsRegOf (sn : Fin 2) (o : Nat) : Option Reg :=
  if o < 0x0C0 then (snsRegs[o / 4]?).map (.sns sn)
  else if o < 0x100 then some (.colch sn (Fin.ofNat 16 ((o - 0x0C0) / 4)))
  else if o < 0x140 then some (.min sn (Fin.ofNat 16 ((o - 0x100) / 4)))
  else if o < 0x180 then some (.max sn (Fin.ofNat 16 ((o - 0x140) / 4)))
  else if o < 0x400 then none
  else some (.grid sn (Fin.ofNat 16 ((o - 0x400) / 4 % 16)) (Fin.ofNat 16 ((o - 0x400) / 64)))

/-- The register that word index `idx` names, at byte offset 4·idx; none where the offset is unmapped (R36, R104). -/
def regOf (idx : BitVec 11) : Option Reg :=
  let off := 4 * idx.toNat
  if off < 0x0100 then globalRegs[off / 4]?
  else if off < 0x0140 then
    (oscRegs[(off - 0x0100) % 0x20 / 4]?).map (.osc (Fin.ofNat 2 ((off - 0x0100) / 0x20)))
  else if off < 0x0200 then fmRegs[(off - 0x0140) / 4]?
  else if off < 0x0400 then
    (fltRegs[(off - 0x0200) % 0x40 / 4]?).map (.flt (Fin.ofNat 8 ((off - 0x0200) / 0x40)))
  else if off < 0x0600 then (dlyRegs[(off - 0x0400) / 4]?).map .dly
  else if off < 0x0680 then seqRegs[(off - 0x0600) / 4]?
  else if off < 0x06C0 then some (.ain (Fin.ofNat 16 ((off - 0x0680) / 4)))
  else if off < 0x0800 then none
  else if off < 0x1800 then snsRegOf (Fin.ofNat 2 ((off - 0x0800) / 0x800)) ((off - 0x0800) % 0x800)
  else none

/-! Reads (R37). -/

def OscReg.get (f : OscReg) (o : Osc) : Word :=
  match f with
  | .freq => o.freq
  | .amp => o.amp
  | .fs => o.fs
  | .phase => o.phase
  | .out => o.out

def FltReg.get (f : FltReg) (x : Filter) : Word :=
  match f with
  | .fs => x.fs
  | .fc => x.fc
  | .input => x.input
  | .output => x.output
  | .b0 => x.b0
  | .b1 => x.b1
  | .b2 => x.b2
  | .a0 => x.a0
  | .a1 => x.a1
  | .a2 => x.a2
  | .x1 => x.x1
  | .x2 => x.x2
  | .y1 => x.y1
  | .y2 => x.y2

def DlyReg.get (f : DlyReg) (d : Delay) : Word :=
  match f with
  | .fs => d.fs
  | .sec => d.sec
  | .gain => d.gain
  | .input => d.input
  | .outL => d.outL
  | .outR => d.outR
  | .cap => d.cap
  | .len => d.len
  | .wpL => d.wpL
  | .rpL => d.rpL
  | .wpR => d.wpR
  | .rpR => d.rpR

def SnsReg.get (f : SnsReg) (x : Sensor) : Word :=
  match f with
  | .posX => x.posX
  | .posY => x.posY
  | .posZ => x.posZ
  | .peakVal => x.peakVal
  | .peakLoc => x.peakLocWord
  | .calCnt => x.calCnt
  | .calState => x.calState.code.setWidth 32

/-- HWCFG: [4:0] DIM, [12:8] NAIN, [19:16] NFLT, [23:20] ROW_READ_LAG (R31). -/
def hwcfgWord (b : Build) : Word :=
  BitVec.ofNat 32 b.dim ||| (BitVec.ofNat 32 Config.nain <<< 8) ||| (BitVec.ofNat 32 Config.nflt <<< 16)
    ||| (BitVec.ofNat 32 b.lag <<< 20)

/-- The words a read of a register returns; array registers from DIM on read 0 (R37, R61, R62, R64). No register
reads the delay memory: R36 and R101 give none, although R76 lists it among the state a register shows (log 18). -/
def readReg (r : Reg) (s : State) : Word :=
  match r with
  | .id => Config.idValue
  | .hwcfg => hwcfgWord s.build
  | .dlyDepth => BitVec.ofNat 32 Config.dlyDepth
  | .status => s.status.toWord
  | .cmd => 0
  | .errCmd => s.errCmd
  | .osc k f => f.get s.osc[k.val]
  | .carBase => s.fm.carBase
  | .fmOut => s.fm.fmOut
  | .flt i f => f.get s.flt[i.val]
  | .dly f => f.get s.dly
  | .seqState => seqStateWord s
  | .calDur => s.seq.calDur
  | .cycles => s.seq.cycles
  | .ain ch => s.ain[ch.val]
  | .sns sn f => f.get s.sns[sn.val]
  | .colch sn c => if c.val < s.build.dim then BitVec.ofNat 32 (s.sns[sn.val]).colch[c.val].val else 0
  | .min sn c => if c.val < s.build.dim then (s.sns[sn.val]).mins[c.val] else 0
  | .max sn c => if c.val < s.build.dim then (s.sns[sn.val]).maxs[c.val] else 0
  | .grid sn c r =>
    if c.val < s.build.dim ∧ r.val < s.build.dim then ((s.sns[sn.val]).grid[c.val])[r.val] else 0

/-- A read of a word index; an unmapped offset reads 0 (R104). -/
def readWord (idx : BitVec 11) (s : State) : Word :=
  match regOf idx with
  | some r => readReg r s
  | none => 0

/-! Writes (R37): a RW register stores the word; a RO register changes nothing. -/

/-- A write of OSCk.FS also sets OSCk_CFG (R41). -/
def writeOsc (k : Fin 2) (f : OscReg) (v : Word) (s : State) : State :=
  let o := s.osc[k.val]
  match f with
  | .freq => s.setOsc k { o with freq := v }
  | .amp => s.setOsc k { o with amp := v }
  | .fs => (s.setOsc k { o with fs := v }).setStatus
      { s.status with oscCfg := s.status.oscCfg.set k.val true k.isLt }
  | .phase | .out => s

def writeFlt (i : Fin 8) (f : FltReg) (v : Word) (s : State) : State :=
  let x := s.flt[i.val]
  match f with
  | .fs => s.setFlt i { x with fs := v }
  | .fc => s.setFlt i { x with fc := v }
  | .input => s.setFlt i { x with input := v }
  | .output | .b0 | .b1 | .b2 | .a0 | .a1 | .a2 | .x1 | .x2 | .y1 | .y2 => s

def writeDly (f : DlyReg) (v : Word) (s : State) : State :=
  match f with
  | .fs => s.setDly { s.dly with fs := v }
  | .sec => s.setDly { s.dly with sec := v }
  | .gain => s.setDly { s.dly with gain := v }
  | .input => s.setDly { s.dly with input := v }
  | .outL | .outR | .cap | .len | .wpL | .rpL | .wpR | .rpR => s

/-- COLCH keeps bits [3:0] and ignores a column from DIM on (R64). -/
def writeColch (sn : Fin 2) (c : Fin 16) (v : Word) (s : State) : State :=
  if c.val < s.build.dim then
    let x := s.sns[sn.val]
    s.setSns sn { x with colch := x.colch.set c.val (Fin.ofNat 16 v.toNat) c.isLt }
  else s

/-- A write of a register other than CMD (R37, R33). -/
def writeReg (r : Reg) (v : Word) (s : State) : State :=
  match r with
  | .status => s.setStatus (s.status.clear v)
  | .osc k f => writeOsc k f v s
  | .carBase => s.setFm { s.fm with carBase := v }
  | .flt i f => writeFlt i f v s
  | .dly f => writeDly f v s
  | .calDur => s.setSeq { s.seq with calDur := v }
  | .ain ch => s.setAin ch v
  | .colch sn c => writeColch sn c v s
  | .id | .hwcfg | .dlyDepth | .cmd | .errCmd | .fmOut | .seqState | .cycles | .sns _ _ | .min _ _ | .max _ _
  | .grid _ _ _ => s

end Sys2Proof.Machine
end

