-- ==== Sys2Proof/Machine/Command.lean ====
section
/-!
DEFINITION. A write of CMD (44_control.md R350), the host's accesses and the reset input (20_memory.md R110,
70_reset_and_hazards.md R451), served one at a time in the order the port presents them.
-/

namespace Sys2Proof.Machine

/-- ExecuteCommand(w) (R350): an illegal word raises ErrIllegal and changes nothing else (R403). -/
def executeCommand (w : Word) (s : State) : Host.Outcome State Fault Refusal :=
  match decode s.build.dim w with
  | .error _ => .next (raise .errIllegal w s)
  | .ok i => exec i s

/-- The word index of CMD, byte offset 0x0010 (R35). -/
def cmdIndex : BitVec 11 := 4

/-- A host write (R37): CMD executes its command, an unmapped offset ignores it (R104). -/
def hostWrite (idx : BitVec 11) (v : Word) (s : State) : Host.Outcome State Fault Refusal :=
  match regOf idx with
  | none => .next s
  | some .cmd => executeCommand v s
  | some r => .next (writeReg r v s)

/-- The reset input (R451): the state of R450, in the same build. What the outside has still to ask stays asked,
and so does the word its latest read returned (log 11). -/
def resetInput (s : State) : State := { State.resetOf s.build with port := s.port, readData := s.readData }

/-- One event on the block's inputs. -/
def hostEvent (e : HostEvent) (s : State) : Host.Outcome State Fault Refusal :=
  match e with
  | .read idx => .next { s with readData := readWord idx s }
  | .write idx v => hostWrite idx v s
  | .reset => .next (resetInput s)

/-- The oldest pending event is taken off the port and served to completion (R110); with none pending the block
holds its state (R417). -/
def servePort (s : State) : Host.Outcome State Fault Refusal :=
  match s.port with
  | [] => .next s
  | e :: rest => hostEvent e { s with port := rest }

/-- The command word `v` as the next write of CMD. -/
def placeCommand (v : Word) (s : State) : State := { s with port := .write cmdIndex v :: s.port }

end Sys2Proof.Machine
end

