-- ==== Sys2Proof/Machine/Step.lean ====
section
/-!
DEFINITION. One step of the machine: one event of the outside, served to completion (20_memory.md R110).
The block fetches nothing (10_state.md R32); a command comes to run when the host writes it to CMD (log 1).
-/

namespace Sys2Proof.Machine

def step (s : State) : Host.Outcome State Fault Refusal := servePort s

/-- The instruction of these opcode-table bits, placed where the next step takes it: the oldest pending host write
is the write of CMD with that word (log 1). -/
def State.withFetchWord (s : State) (nbits w : Nat) : State := placeCommand (tableWord nbits w) s

end Sys2Proof.Machine
end

