-- ==== Sys2Proof/Safety.lean ====
section
/-!
DEFINITION. The terms the claims use: the number a pattern stands for and what rounding it correctly means
(00_scope.md R9), runs of commands, what a sticky bit may not influence (60_exceptions.md R407), the offsets of the
register map (10_state.md R36), and the invariant of the machine.
-/

namespace Sys2Proof.Machine

/-! Numbers. -/

/-- The number a finite pattern stands for (R9). -/
def toRat (x : Word) : ℚ := (fsigned x : ℚ) * (2 : ℚ) ^ fscale x

/-- Where rounding to nearest gives an infinity: the midpoint of the largest finite number and 2^128. -/
def overflowBound : ℚ := 2 ^ 128 - 2 ^ 103

/-- `r` is the exact number `e` rounded to binary32, to nearest with ties to even (R9). A non-zero `e` gives its
sign to the result, also where the result is a zero. -/
structure RoundsTo (e : ℚ) (r : Word) : Prop where
  overflow : overflowBound ≤ |e| → r = finf (decide (e < 0))
  finite : |e| < overflowBound → isFinite r = true
  nearest : |e| < overflowBound → ∀ c : Word, isFinite c = true → |toRat r - e| ≤ |toRat c - e|
  even : |e| < overflowBound → ∀ c : Word, isFinite c = true → |toRat c - e| = |toRat r - e| →
    toRat c ≠ toRat r → ffrac r % 2 = 0
  sign : e ≠ 0 → fsign r = decide (e < 0)

/-! Runs of commands. -/

/-- The commands one after another, stopping at the first that answers no next state. -/
def execAll : List Instr → State → Host.Outcome State Fault Refusal
  | [], s => .next s
  | i :: rest, s =>
    match exec i s with
    | .next t => execAll rest t
    | .fault f => .fault f
    | .refused r => .refused r

/-- One sample pair of the delay: the input written, the left render, the right render (42_delay.md R264). -/
def renderPair (x : Word) (s : State) : Host.Outcome State Fault Refusal :=
  execAll [.dlyRenderL, .dlyRenderR] { s with dly := { s.dly with input := x } }

/-- OUT_L and OUT_R after each pair of a run of pairs, one pair for each input. -/
def pairOutputs : List Word → State → List (Word × Word)
  | [], _ => []
  | x :: rest, s =>
    match renderPair x s with
    | .next t => (t.dly.outL, t.dly.outR) :: pairOutputs rest t
    | .fault _ => []
    | .refused _ => []

/-! What the sticky bits may not influence. -/

/-- The state without its sticky bits and ERR_CMD. -/
def forgetErrors (s : State) : State :=
  { s with
    status := { s.status with errIllegal := false, errConfig := false, errOrder := false, degen := false }
    errCmd := 0 }

/-- An outcome without the sticky bits and ERR_CMD of its next state. -/
def observed : Host.Outcome State Fault Refusal → Host.Outcome State Fault Refusal
  | .next t => .next (forgetErrors t)
  | .fault f => .fault f
  | .refused r => .refused r

/-! The register map. -/

/-- The byte offset of a register, as the table of R36 gives it. -/
def Reg.offset : Reg → Nat
  | .id => 0x0000
  | .hwcfg => 0x0004
  | .dlyDepth => 0x0008
  | .status => 0x000C
  | .cmd => 0x0010
  | .errCmd => 0x0014
  | .osc k f => 0x20 * k.val + match f with
    | .freq => 0x0100
    | .amp => 0x0104
    | .fs => 0x0108
    | .phase => 0x010C
    | .out => 0x0110
  | .carBase => 0x0140
  | .fmOut => 0x0144
  | .flt i f => 0x40 * i.val + match f with
    | .fs => 0x0200
    | .fc => 0x0204
    | .input => 0x0208
    | .output => 0x020C
    | .b0 => 0x0210
    | .b1 => 0x0214
    | .b2 => 0x0218
    | .a0 => 0x021C
    | .a1 => 0x0220
    | .a2 => 0x0224
    | .x1 => 0x0228
    | .x2 => 0x022C
    | .y1 => 0x0230
    | .y2 => 0x0234
  | .dly f => match f with
    | .fs => 0x0400
    | .sec => 0x0404
    | .gain => 0x0408
    | .input => 0x040C
    | .outL => 0x0410
    | .outR => 0x0414
    | .cap => 0x0418
    | .len => 0x041C
    | .wpL => 0x0420
    | .rpL => 0x0424
    | .wpR => 0x0428
    | .rpR => 0x042C
  | .seqState => 0x0600
  | .calDur => 0x0604
  | .cycles => 0x0608
  | .ain ch => 0x0680 + 4 * ch.val
  | .sns sn f => 0x800 * sn.val + match f with
    | .posX => 0x0800
    | .posY => 0x0804
    | .posZ => 0x0808
    | .peakVal => 0x080C
    | .peakLoc => 0x0810
    | .calCnt => 0x0814
    | .calState => 0x0818
  | .colch sn c => 0x0800 + 0x800 * sn.val + 0x0C0 + 4 * c.val
  | .min sn c => 0x0800 + 0x800 * sn.val + 0x100 + 4 * c.val
  | .max sn c => 0x0800 + 0x800 * sn.val + 0x140 + 4 * c.val
  | .grid sn c r => 0x0800 + 0x800 * sn.val + 0x400 + 4 * (16 * r.val + c.val)

/-- The registers a host write stores into whole (access RW of R36, COLCH apart). -/
def Reg.plainRW : Reg → Bool
  | .osc _ .freq | .osc _ .amp | .osc _ .fs | .carBase | .flt _ .fs | .flt _ .fc | .flt _ .input
  | .dly .fs | .dly .sec | .dly .gain | .dly .input | .calDur | .ain _ => true
  | _ => false

/-- The registers a host write does not change at all (access RO of R36). -/
def Reg.readOnly : Reg → Bool
  | .status | .cmd | .colch _ _ => false
  | r => !r.plainRW

/-! The invariant. -/

/-- What holds of one sensor in every reachable state. -/
structure Sensor.Inv (b : Build) (x : Sensor) : Prop where
  /-- The peak is inside the matrix (R63). -/
  peakCol : x.peakCol.val < b.dim
  peakRow : x.peakRow.val < b.dim
  /-- The peak value starts at +0.0 and is only ever exceeded (R321, R322). -/
  peakVal : fge x.peakVal ZERO = true
  /-- The extremes start at +0.0 and are only ever exceeded (R61, R320). -/
  mins : ∀ c : Fin 16, fge x.mins[c.val] ZERO = true
  maxs : ∀ c : Fin 16, fge x.maxs[c.val] ZERO = true
  /-- The frame counter is 0 outside the measuring states (R320). -/
  count : x.calState = .idle ∨ x.calState = .done → x.calCnt = 0
  /-- Each phase is the first to touch its extremes (R320). -/
  idleMins : x.calState = .idle → x.mins = Vector.replicate 16 0
  earlyMaxs : x.calState = .idle ∨ x.calState = .measuringMinima → x.maxs = Vector.replicate 16 0
  /-- Nothing is sampled or resolved before Done (R321, R322). -/
  unsampled : x.calState ≠ .done → x.grid = Vector.replicate 16 (Vector.replicate 16 0) ∧ x.peakVal = 0 ∧
    x.peakCol = 0 ∧ x.peakRow = 0 ∧ x.posX = 0 ∧ x.posY = 0 ∧ x.posZ = 0
  /-- The array entries from DIM on hold no state (R61, R62, R64). -/
  unusedMins : ∀ c : Fin 16, b.dim ≤ c.val → x.mins[c.val] = 0
  unusedMaxs : ∀ c : Fin 16, b.dim ≤ c.val → x.maxs[c.val] = 0
  unusedColch : ∀ c : Fin 16, b.dim ≤ c.val → x.colch[c.val] = 0
  unusedGrid : ∀ c r : Fin 16, b.dim ≤ c.val ∨ b.dim ≤ r.val → (x.grid[c.val])[r.val] = 0

/-- The capacity and the pointers of a configured delay are in range (R49, R263). -/
structure Delay.InRange (d : Delay) : Prop where
  capPos : 1 ≤ d.cap.toNat
  capMax : d.cap.toNat ≤ Config.dlyDepth
  wpL : d.wpL.toNat < d.cap.toNat
  rpL : d.rpL.toNat < d.cap.toNat
  wpR : d.wpR.toNat < d.cap.toNat
  rpR : d.rpR.toNat < d.cap.toNat

/-- What holds of the machine in every reachable state. -/
structure State.Inv (s : State) : Prop where
  /-- The delay memories are in canonical form (R101). -/
  memL : s.dmemL.wf = true
  memR : s.dmemR.wf = true
  /-- A configured delay is in range (R263). -/
  delay : s.status.dlyCfg = true → s.dly.InRange
  /-- A delay never configured has its reset registers, apart from the host's operands, and silent memory (R261,
  R262). -/
  delayUnconfigured : s.status.dlyCfg = false → s.status.dlyPhase = false ∧ s.dmemL = [] ∧ s.dmemR = [] ∧
    s.dly = { Delay.reset with fs := s.dly.fs, sec := s.dly.sec, gain := s.dly.gain, input := s.dly.input }
  /-- An oscillator never configured has not run (R41, R230, R232). -/
  oscillator : ∀ k : Fin 2, s.status.oscCfg[k.val] = false →
    (s.osc[k.val]).fs = 0 ∧ (s.osc[k.val]).phase = 0 ∧ (s.osc[k.val]).out = 0
  /-- ROW is below DIM (R55). -/
  row : s.seq.row.val < s.build.dim
  /-- ROW and CYCLES leave 0 only once both sensors are Done (R310). -/
  sequenced : s.seq.row ≠ 0 ∨ s.seq.cycles ≠ 0 → s.sns[0].calState = .done ∧ s.sns[1].calState = .done
  /-- Each sensor's own invariant. -/
  sensor : ∀ sn : Fin 2, (s.sns[sn.val]).Inv s.build

end Sys2Proof.Machine
end

