-- ==== Sys2Proof/Certificates/Slice0/Obligations.lean ====
section
/-!
DEFINITION. The statements about the model that are put to the provers. Each is a proposition; OBLIGATIONS.json
gives its id, its tier and the rule of spec/ it comes from.
-/

open Sys2Proof Sys2Proof.Machine

/-! ## Encoding -/

/-- R132, R133: every legal command, with every operand its encoding admits, is decoded from its own word. -/
def Obligations.DecodeEncodeRoundTrip : Prop :=
  ∀ (dim : Nat) (i : Instr), WellFormed dim i → decode dim (encode i) = .ok i

/-- R133: a word decodes to at most the command whose encoding it is, and that command is well formed. -/
def Obligations.DecodedWordIsItsEncoding : Prop :=
  ∀ (dim : Nat) (w : Word) (i : Instr), decode dim w = .ok i → encode i = w ∧ WellFormed dim i

/-- R132: the match and mask of every row of the opcode table, its fields and its range condition. -/
def Obligations.OpcodeTableSelects : Prop :=
  ∀ (dim : Nat) (w : Word),
    (decode dim w = .ok .nop ↔ w &&& 0xFFFFFFFF = 0x00000000) ∧
    (∀ k : Fin 2, decode dim w = .ok (.oscStep k) ↔
      w &&& 0xFFFFFFFE = 0x01000000 ∧ (w.extractLsb' 0 1).toNat = k.val) ∧
    (decode dim w = .ok .fmStep ↔ w &&& 0xFFFFFFFF = 0x02000000) ∧
    (∀ i : Fin 8, decode dim w = .ok (.fltConfig i) ↔
      w &&& 0xFFFFFFF8 = 0x10000000 ∧ (w.extractLsb' 0 3).toNat = i.val) ∧
    (∀ i : Fin 8, decode dim w = .ok (.fltApply i) ↔
      w &&& 0xFFFFFFF8 = 0x11000000 ∧ (w.extractLsb' 0 3).toNat = i.val) ∧
    (decode dim w = .ok .dlyConfig ↔ w &&& 0xFFFFFFFF = 0x20000000) ∧
    (decode dim w = .ok .dlyRenderL ↔ w &&& 0xFFFFFFFF = 0x21000000) ∧
    (decode dim w = .ok .dlyRenderR ↔ w &&& 0xFFFFFFFF = 0x22000000) ∧
    (decode dim w = .ok .seqFrame ↔ w &&& 0xFFFFFFFF = 0x30000000) ∧
    (∀ sn : Fin 2, decode dim w = .ok (.snsTick sn) ↔
      w &&& 0xFFFFFFFE = 0x31000000 ∧ (w.extractLsb' 0 1).toNat = sn.val) ∧
    (∀ (sn : Fin 2) (row : BitVec 8), decode dim w = .ok (.snsSample sn row) ↔
      w &&& 0xFFFF00FE = 0x32000000 ∧ (w.extractLsb' 0 1).toNat = sn.val ∧ w.extractLsb' 8 8 = row ∧
        row.toNat < dim) ∧
    (∀ sn : Fin 2, decode dim w = .ok (.snsResolve sn) ↔
      w &&& 0xFFFFFFFE = 0x33000000 ∧ (w.extractLsb' 0 1).toNat = sn.val)

/-- R130, R132: one word of each family, written out as OPC, RSV, ARG, INST. -/
def Obligations.FamilyWordsDecode : Prop :=
  decode 3 0b00000000000000000000000000000000 = .ok .nop ∧
  decode 3 0b00000001000000000000000000000001 = .ok (.oscStep 1) ∧
  decode 3 0b00010001000000000000000000000011 = .ok (.fltApply 3) ∧
  decode 3 0b00100010000000000000000000000000 = .ok .dlyRenderR ∧
  decode 3 0b00110010000000000000001000000001 = .ok (.snsSample 1 2) ∧
  decode 3 0b00110010000000000000001100000000 = .error .row ∧
  decode 3 0b00010001000000000000000000001000 = .error .strayBits ∧
  decode 3 0b00000000000000010000000000000000 = .error .reserved ∧
  decode 3 0b00000011000000000000000000000000 = .error .opcode

/-- R36: the register that a word index names is the one whose byte offset the table gives. -/
def Obligations.RegisterMapAgreesWithOffsets : Prop :=
  (∀ r : Reg, r.offset % 4 = 0 ∧ regOf (BitVec.ofNat 11 (r.offset / 4)) = some r) ∧
  (∀ (idx : BitVec 11) (r : Reg), regOf idx = some r → r.offset = 4 * idx.toNat)

/-! ## The port -/

/-- R35, R350: a step that takes a write of CMD is exec of the command the word decodes to, on the state without that
write pending. CMD is word index 4, byte offset 0x0010. What is pending on the port is the model's own list (log 1).
-/
def Obligations.StepRunsDecodedCommand : Prop :=
  (∀ (s : State) (w : Word) (rest : List HostEvent) (i : Instr), s.port = .write 4 w :: rest →
    decode s.build.dim w = .ok i → step s = exec i { s with port := rest }) ∧
  (∀ (s : State) (w : Nat) (i : Instr), decode s.build.dim (BitVec.ofNat 32 w) = .ok i → w < 2 ^ 32 →
    step (s.withFetchWord 32 w) = exec i s)

/-- R403: an illegal word written to CMD changes nothing but STATUS.ERR_ILLEGAL and ERR_CMD; the example of R403 is
row 3 in a block of DIM 3. What is pending on the port is the model's own list (log 1). -/
def Obligations.IllegalCommandOnlyRaises : Prop :=
  (∀ (s : State) (w : Word) (rest : List HostEvent) (e : Illegal), s.port = .write 4 w :: rest →
    decode s.build.dim w = .error e →
    step s = .next { s with port := rest, status := { s.status with errIllegal := true }, errCmd := w }) ∧
  (∀ (s : State) (rest : List HostEvent), s.port = .write 4 0x32000300 :: rest → s.build.dim = 3 →
    step s = .next
      { s with port := rest, status := { s.status with errIllegal := true }, errCmd := 0x32000300 })

/-- R37, R104, R108: a read returns the register's word, or 0 at an unmapped offset, and has no side effect; with
nothing pending the block holds its state (R417). What is pending on the port, the word last read and the idle step
are the model's own (log 1, log 2). -/
def Obligations.ReadHasNoSideEffect : Prop :=
  (∀ (s : State) (idx : BitVec 11) (r : Reg) (rest : List HostEvent), s.port = .read idx :: rest →
    4 * idx.toNat = r.offset → step s = .next { s with port := rest, readData := readReg r s }) ∧
  (∀ (s : State) (idx : BitVec 11) (rest : List HostEvent), s.port = .read idx :: rest →
    (∀ r : Reg, r.offset ≠ 4 * idx.toNat) → step s = .next { s with port := rest, readData := 0 }) ∧
  (∀ s : State, s.port = [] → step s = .next s)

/-- R104: an unmapped offset reads 0 and ignores a write, without any error; the reserved words of each filter and the
range from 0x1800 on are unmapped. What is pending on the port and the word last read are the model's own (log 1, log
2). -/
def Obligations.UnmappedReadsZeroAndIgnoresWrites : Prop :=
  (∀ (s : State) (idx : BitVec 11) (rest : List HostEvent), (∀ r : Reg, r.offset ≠ 4 * idx.toNat) →
    s.port = .read idx :: rest → step s = .next { s with port := rest, readData := 0 }) ∧
  (∀ (s : State) (idx : BitVec 11) (v : Word) (rest : List HostEvent),
    (∀ r : Reg, r.offset ≠ 4 * idx.toNat) → s.port = .write idx v :: rest →
    step s = .next { s with port := rest }) ∧
  (∀ (i : Fin 8) (r : Reg), r.offset ≠ 0x0200 + 0x40 * i.val + 0x38 ∧
    r.offset ≠ 0x0200 + 0x40 * i.val + 0x3C) ∧
  (∀ r : Reg, r.offset < 0x1800)

/-- R37, R64, R41: a host write of a register other than CMD and STATUS is complete in one step. An RW register's own
field takes the written word and no other field changes; OSCk.FS also sets OSCk_CFG; COLCH of a column below DIM takes
bits [3:0]; a RO register and COLCH from DIM on change nothing. The register then reads what was written (COLCH its
bits [3:0]), every other register but STATUS reads as before, and the delay memory and the build are kept. What is
pending on the port and the word last read, which the write keeps, are the model's own (log 1, log 2). -/
def Obligations.RegisterWriteStoresOneRegister : Prop :=
  ∀ (s : State) (r : Reg) (v : Word) (rest : List HostEvent), r ≠ .cmd → r ≠ .status →
    s.port = .write (BitVec.ofNat 11 (r.offset / 4)) v :: rest →
    ∃ t, step s = .next t ∧ t.port = rest ∧ t.dmemL = s.dmemL ∧ t.dmemR = s.dmemR ∧ t.build = s.build ∧
      t.readData = s.readData ∧
      (r.plainRW = true → readReg r t = v) ∧
      (∀ sn c, r = .colch sn c → c.val < s.build.dim → readReg r t = v &&& 0xF) ∧
      (∀ sn c, r = .colch sn c → s.build.dim ≤ c.val → t = { s with port := rest }) ∧
      (r.readOnly = true → t = { s with port := rest }) ∧
      (∀ r', r' ≠ r → r' ≠ .status → readReg r' t = readReg r' s) ∧
      (∀ k, r = .osc k .fs → t.status = { s.status with oscCfg := s.status.oscCfg.set k.val true k.isLt }) ∧
      ((∀ k, r ≠ .osc k .fs) → t.status = s.status) ∧
      (∀ k, r = .osc k .freq → t =
        { s with port := rest, osc := s.osc.set k.val { s.osc[k.val] with freq := v } k.isLt }) ∧
      (∀ k, r = .osc k .amp → t =
        { s with port := rest, osc := s.osc.set k.val { s.osc[k.val] with amp := v } k.isLt }) ∧
      (∀ k, r = .osc k .fs → t =
        { s with
          port := rest
          osc := s.osc.set k.val { s.osc[k.val] with fs := v } k.isLt
          status := { s.status with oscCfg := s.status.oscCfg.set k.val true k.isLt } }) ∧
      (r = .carBase → t = { s with port := rest, fm := { s.fm with carBase := v } }) ∧
      (∀ i, r = .flt i .fs → t =
        { s with port := rest, flt := s.flt.set i.val { s.flt[i.val] with fs := v } i.isLt }) ∧
      (∀ i, r = .flt i .fc → t =
        { s with port := rest, flt := s.flt.set i.val { s.flt[i.val] with fc := v } i.isLt }) ∧
      (∀ i, r = .flt i .input → t =
        { s with port := rest, flt := s.flt.set i.val { s.flt[i.val] with input := v } i.isLt }) ∧
      (r = .dly .fs → t = { s with port := rest, dly := { s.dly with fs := v } }) ∧
      (r = .dly .sec → t = { s with port := rest, dly := { s.dly with sec := v } }) ∧
      (r = .dly .gain → t = { s with port := rest, dly := { s.dly with gain := v } }) ∧
      (r = .dly .input → t = { s with port := rest, dly := { s.dly with input := v } }) ∧
      (r = .calDur → t = { s with port := rest, seq := { s.seq with calDur := v } }) ∧
      (∀ ch, r = .ain ch → t = { s with port := rest, ain := s.ain.set ch.val v ch.isLt }) ∧
      (∀ sn c, r = .colch sn c → c.val < s.build.dim → ∃ n : Fin 16, n.val = v.toNat % 16 ∧ t =
        { s with
          port := rest
          sns := s.sns.set sn.val
            { s.sns[sn.val] with colch := (s.sns[sn.val]).colch.set c.val n c.isLt } sn.isLt })

/-- R33: a host write to STATUS clears each of bits [3:0] whose written bit is 1 and changes nothing else. STATUS is
word index 3. What is pending on the port is the model's own list (log 1). -/
def Obligations.StatusWriteClearsStickyBits : Prop :=
  ∀ (s : State) (v : Word) (rest : List HostEvent), s.port = .write 3 v :: rest →
    ∃ st : Status, step s = .next { s with port := rest, status := st } ∧
      st.errIllegal = (if v.getLsbD 0 then false else s.status.errIllegal) ∧
      st.errConfig = (if v.getLsbD 1 then false else s.status.errConfig) ∧
      st.errOrder = (if v.getLsbD 2 then false else s.status.errOrder) ∧
      st.degen = (if v.getLsbD 3 then false else s.status.degen) ∧
      st.dlyPhase = s.status.dlyPhase ∧ st.dlyCfg = s.status.dlyCfg ∧ st.oscCfg = s.status.oscCfg

/-- R41: a host write of OSCk.FS stores the word, sets OSCk_CFG and leaves PHASE, FREQ and AMP; no step but a reset
clears OSCk_CFG. What is pending on the port is the model's own list (log 1). -/
def Obligations.OscillatorRateWriteConfigures : Prop :=
  (∀ (s : State) (k : Fin 2) (v : Word) (rest : List HostEvent),
    s.port = .write (BitVec.ofNat 11 ((0x0108 + 0x20 * k.val) / 4)) v :: rest →
    step s = .next
      { s with
        port := rest
        osc := s.osc.set k.val { s.osc[k.val] with fs := v } k.isLt
        status := { s.status with oscCfg := s.status.oscCfg.set k.val true k.isLt } }) ∧
  (∀ (s t : State) (k : Fin 2), s.status.oscCfg[k.val] = true → step s = .next t →
    s.port.head? ≠ some .reset → t.status.oscCfg[k.val] = true)

/-- R451: an assertion of the reset input sets all state of the block to the values of R450, whatever it was; the
build stays. What the outside has still pending and the word it last read are not the block's (log 11, log 2). -/
def Obligations.ResetInputRestoresResetState : Prop :=
  ∀ (s : State) (rest : List HostEvent), s.port = .reset :: rest →
    step s = .next { State.resetOf s.build with port := rest, readData := s.readData }

/-- R450: what every register, the delay memory and the row-drive lines hold after reset. -/
def Obligations.RegistersAfterReset : Prop :=
  ∀ b : Build,
    readReg .id (State.resetOf b) = 0x45464D31 ∧
    readReg .hwcfg (State.resetOf b) = BitVec.ofNat 32 (b.dim + 16 * 2 ^ 8 + 8 * 2 ^ 16 + b.lag * 2 ^ 20) ∧
    readReg .dlyDepth (State.resetOf b) = 65536 ∧
    readReg .seqState (State.resetOf b) = 0x00030000 ∧
    (∀ (sn : Fin 2) (c : Fin 16), c.val < b.dim →
      readReg (.colch sn c) (State.resetOf b) = BitVec.ofNat 32 ((sn.val * b.dim + c.val) % 16)) ∧
    (∀ (sn : Fin 2) (c : Fin 16), b.dim ≤ c.val → readReg (.colch sn c) (State.resetOf b) = 0) ∧
    (∀ r : Reg, r ≠ .id → r ≠ .hwcfg → r ≠ .dlyDepth → r ≠ .seqState → (∀ sn c, r ≠ .colch sn c) →
      readReg r (State.resetOf b) = 0) ∧
    (∀ (ch : Channel) (j : Nat), (State.resetOf b).memRead ch j = 0) ∧
    (∀ r : Fin 16, rowDrive (State.resetOf b) r = decide (r = 0))

/-- R33: every bit of STATUS as the host reads it. -/
def Obligations.StatusWordFields : Prop :=
  ∀ (s : State) (j : Nat), (readReg .status s).getLsbD j =
    if j = 0 then s.status.errIllegal else if j = 1 then s.status.errConfig
    else if j = 2 then s.status.errOrder else if j = 3 then s.status.degen
    else if j = 8 then s.status.dlyPhase else if j = 9 then s.status.dlyCfg
    else if j = 10 then s.status.oscCfg[0] else if j = 11 then s.status.oscCfg[1] else false

/-- R55, R60, R63: the fields of SEQ_STATE, of a sensor's CAL_STATE and of its PEAK_LOC as the host reads them. -/
def Obligations.SequencerWordFields : Prop :=
  ∀ (s : State) (sn : Fin 2),
    let q := readReg .seqState s
    let p := readReg (.sns sn .peakLoc) s
    q.extractLsb' 0 2 = (s.sns[0]).calState.code ∧ q.extractLsb' 2 2 = (s.sns[1]).calState.code ∧
    q.extractLsb' 4 4 = 0 ∧ (q.extractLsb' 8 4).toNat = s.seq.row.val ∧ q.extractLsb' 12 4 = 0 ∧
    q.getLsbD 16 = decide ((s.sns[0]).calState ≠ .done) ∧
    q.getLsbD 17 = decide ((s.sns[1]).calState ≠ .done) ∧ q.extractLsb' 18 14 = 0 ∧
    (readReg (.sns sn .calState) s).toNat = (match (s.sns[sn.val]).calState with
      | .idle => 0
      | .measuringMinima => 1
      | .measuringMaxima => 2
      | .done => 3) ∧
    (p.extractLsb' 0 4).toNat = (s.sns[sn.val]).peakCol.val ∧ p.extractLsb' 4 4 = 0 ∧
    (p.extractLsb' 8 4).toNat = (s.sns[sn.val]).peakRow.val ∧ p.extractLsb' 12 20 = 0

/-- R36, R37: what every register of the map reads in every state, in terms of the fields the commands act on: the
fixed words of ID, HWCFG and DLYDEPTH (R31), CMD as 0 (R35), and 0 for the array registers from DIM on (R61, R62, R64).
The fields of STATUS, SEQ_STATE, CAL_STATE and PEAK_LOC are StatusWordFields and SequencerWordFields. -/
def Obligations.RegistersReadTheirFields : Prop :=
  ∀ s : State,
    (readReg .id s = 0x45464D31 ∧
      readReg .hwcfg s =
        BitVec.ofNat 32 (s.build.dim + 16 * 2 ^ 8 + 8 * 2 ^ 16 + s.build.lag * 2 ^ 20) ∧
      readReg .dlyDepth s = 65536 ∧ readReg .cmd s = 0 ∧ readReg .errCmd s = s.errCmd) ∧
    (∀ k : Fin 2,
      readReg (.osc k .freq) s = (s.osc[k.val]).freq ∧ readReg (.osc k .amp) s = (s.osc[k.val]).amp ∧
      readReg (.osc k .fs) s = (s.osc[k.val]).fs ∧ readReg (.osc k .phase) s = (s.osc[k.val]).phase ∧
      readReg (.osc k .out) s = (s.osc[k.val]).out) ∧
    (readReg .carBase s = s.fm.carBase ∧ readReg .fmOut s = s.fm.fmOut) ∧
    (∀ i : Fin 8,
      readReg (.flt i .fs) s = (s.flt[i.val]).fs ∧ readReg (.flt i .fc) s = (s.flt[i.val]).fc ∧
      readReg (.flt i .input) s = (s.flt[i.val]).input ∧ readReg (.flt i .output) s = (s.flt[i.val]).output ∧
      readReg (.flt i .b0) s = (s.flt[i.val]).b0 ∧ readReg (.flt i .b1) s = (s.flt[i.val]).b1 ∧
      readReg (.flt i .b2) s = (s.flt[i.val]).b2 ∧ readReg (.flt i .a0) s = (s.flt[i.val]).a0 ∧
      readReg (.flt i .a1) s = (s.flt[i.val]).a1 ∧ readReg (.flt i .a2) s = (s.flt[i.val]).a2 ∧
      readReg (.flt i .x1) s = (s.flt[i.val]).x1 ∧ readReg (.flt i .x2) s = (s.flt[i.val]).x2 ∧
      readReg (.flt i .y1) s = (s.flt[i.val]).y1 ∧ readReg (.flt i .y2) s = (s.flt[i.val]).y2) ∧
    (readReg (.dly .fs) s = s.dly.fs ∧ readReg (.dly .sec) s = s.dly.sec ∧
      readReg (.dly .gain) s = s.dly.gain ∧ readReg (.dly .input) s = s.dly.input ∧
      readReg (.dly .outL) s = s.dly.outL ∧ readReg (.dly .outR) s = s.dly.outR ∧
      readReg (.dly .cap) s = s.dly.cap ∧ readReg (.dly .len) s = s.dly.len ∧
      readReg (.dly .wpL) s = s.dly.wpL ∧ readReg (.dly .rpL) s = s.dly.rpL ∧
      readReg (.dly .wpR) s = s.dly.wpR ∧ readReg (.dly .rpR) s = s.dly.rpR) ∧
    (readReg .calDur s = s.seq.calDur ∧ readReg .cycles s = s.seq.cycles) ∧
    (∀ ch : Fin 16, readReg (.ain ch) s = s.ain[ch.val]) ∧
    (∀ sn : Fin 2,
      readReg (.sns sn .posX) s = (s.sns[sn.val]).posX ∧ readReg (.sns sn .posY) s = (s.sns[sn.val]).posY ∧
      readReg (.sns sn .posZ) s = (s.sns[sn.val]).posZ ∧
      readReg (.sns sn .peakVal) s = (s.sns[sn.val]).peakVal ∧
      readReg (.sns sn .calCnt) s = (s.sns[sn.val]).calCnt) ∧
    (∀ (sn : Fin 2) (c : Fin 16),
      (c.val < s.build.dim →
        (readReg (.colch sn c) s).toNat = ((s.sns[sn.val]).colch[c.val]).val ∧
        readReg (.min sn c) s = (s.sns[sn.val]).mins[c.val] ∧
        readReg (.max sn c) s = (s.sns[sn.val]).maxs[c.val]) ∧
      (s.build.dim ≤ c.val →
        readReg (.colch sn c) s = 0 ∧ readReg (.min sn c) s = 0 ∧ readReg (.max sn c) s = 0)) ∧
    (∀ (sn : Fin 2) (c r : Fin 16),
      (c.val < s.build.dim ∧ r.val < s.build.dim →
        readReg (.grid sn c r) s = ((s.sns[sn.val]).grid[c.val])[r.val]) ∧
      (s.build.dim ≤ c.val ∨ s.build.dim ≤ r.val → readReg (.grid sn c r) s = 0))

/-! ## The commands -/

/-- R351: NOP is the word 0x00000000 exactly and reads and writes no state; every other word with OPC 0x00 is
illegal. -/
def Obligations.NopChangesNothing : Prop :=
  (∀ dim : Nat, decode dim 0x00000000 = .ok .nop) ∧ (∀ s : State, exec .nop s = .next s) ∧
  (∀ (dim : Nat) (w : Word), w.extractLsb' 24 8 = 0x00 → w ≠ 0x00000000 → ∃ e : Illegal, decode dim w = .error e)

/-- R229, R230: OSC_STEP of a configured oscillator gives AMP·sin(PHASE) and the advanced, wrapped phase and
changes nothing else; of an unconfigured one it raises ErrOrder and does nothing else. -/
def Obligations.OscStepResult : Prop :=
  ∀ (k : Fin 2) (s : State),
    let o := s.osc[k.val]
    let p := fadd o.phase (fdiv (fmul TWO_PI o.freq) o.fs)
    let wrapped :=
      if fge p TWO_PI then fsub p TWO_PI
      else if flt p ZERO then (if fge (fadd p TWO_PI) TWO_PI then ZERO else fadd p TWO_PI)
      else p
    let after : Osc := { o with out := fmul o.amp (numSin o.phase), phase := wrapped }
    (s.status.oscCfg[k.val] = true →
      exec (.oscStep k) s = .next { s with osc := s.osc.set k.val after k.isLt }) ∧
    (s.status.oscCfg[k.val] = false → exec (.oscStep k) s = .next
      { s with status := { s.status with errOrder := true }, errCmd := 0x01000000 + BitVec.ofNat 32 k.val })

/-- R232, with NextSample of R229 as what OSC_STEP does: FM_STEP of configured oscillators is the modulator's step,
OSC0.FREQ set to CAR_BASE plus the modulator's output, the carrier's step, and FM_OUT; otherwise it raises ErrOrder
and does nothing else. -/
def Obligations.FmStepResult : Prop :=
  ∀ s : State,
    (s.status.oscCfg[0] = true → s.status.oscCfg[1] = true → ∃ s1 s3 : State,
      exec (.oscStep 1) s = .next s1 ∧
      exec (.oscStep 0)
        { s1 with osc := s1.osc.set 0 { s1.osc[0] with freq := fadd s1.fm.carBase s1.osc[1].out } } =
          .next s3 ∧
      exec .fmStep s = .next { s3 with fm := { s3.fm with fmOut := s3.osc[0].out } }) ∧
    (s.status.oscCfg[0] = false ∨ s.status.oscCfg[1] = false → exec .fmStep s = .next
      { s with status := { s.status with errOrder := true }, errCmd := 0x02000000 })

/-- R200: FLT_CONFIG writes the six coefficients from FS and FC, zeroes the history and changes nothing else. What a
filter configured with FC = 0 outputs afterwards is not stated here (log 19). -/
def Obligations.FltConfigResult : Prop :=
  ∀ (i : Fin 8) (s : State),
    let f := s.flt[i.val]
    let k := numTan (fdiv (fmul PI f.fc) f.fs)
    let k2 := fmul k k
    let sk := fmul SQRT2 k
    let after : Filter :=
      { f with
        b0 := k2
        b1 := fmul TWO k2
        b2 := k2
        a0 := fadd (fadd k2 sk) ONE
        a1 := fmul TWO (fsub k2 ONE)
        a2 := fadd (fsub k2 sk) ONE
        x1 := 0x00000000
        x2 := 0x00000000
        y1 := 0x00000000
        y2 := 0x00000000 }
    exec (.fltConfig i) s = .next { s with flt := s.flt.set i.val after i.isLt }

/-- R199, R201: FLT_APPLY evaluates the difference equation on IN, +0.0 where A0 is a zero, shifts the history, stores
OUT and changes nothing else. The formula holds for every coefficient; that a filter configured with FC = 0 follows
it, and not R200's sentence about its output, is the model's choice (log 19). -/
def Obligations.FltApplyResult : Prop :=
  ∀ (i : Fin 8) (s : State),
    let f := s.flt[i.val]
    let num := fadd (fadd (fmul f.b0 f.input) (fmul f.b1 f.x1)) (fmul f.b2 f.x2)
    let fb := fadd (fmul f.a1 f.y1) (fmul f.a2 f.y2)
    let y := if feq f.a0 ZERO then ZERO else fdiv (fsub num fb) f.a0
    let after : Filter := { f with x2 := f.x1, x1 := f.input, y2 := f.y1, y1 := y, output := y }
    exec (.fltApply i) s = .next { s with flt := s.flt.set i.val after i.isLt }

/-- R260: DLY_CONFIG takes the capacity and the length truncated from FS and FS·SEC, or raises ErrConfig and
does nothing else. -/
def Obligations.DlyConfigResult : Prop :=
  ∀ s : State,
    let prod := fmul s.dly.fs s.dly.sec
    let cap := ftoiTrunc s.dly.fs
    let len := ftoiTrunc prod
    (isFinite s.dly.fs = true ∧ isFinite prod = true ∧ 1 ≤ cap ∧ cap ≤ 65536 ∧ -2147483648 ≤ len ∧
        len ≤ 2147483647 → ∃ d : Delay,
      exec .dlyConfig s = .next
        { s with dly := d, status := { s.status with dlyPhase := false, dlyCfg := true } } ∧
      (d.cap.toNat : Int) = cap ∧ d.len.toInt = len ∧ d.wpL = 0 ∧ d.wpR = 0 ∧
      (d.rpL.toNat : Int) = (-len) % cap ∧ (d.rpR.toNat : Int) = (-len) % cap ∧
      d = { s.dly with cap := d.cap, len := d.len, wpL := 0, wpR := 0, rpL := d.rpL, rpR := d.rpR }) ∧
    (isFinite s.dly.fs = false ∨ isFinite prod = false ∨ cap < 1 ∨ 65536 < cap ∨ len < -2147483648 ∨
        2147483647 < len → exec .dlyConfig s = .next
      { s with status := { s.status with errConfig := true }, errCmd := 0x20000000 })

/-- R261: DLY_RENDER_L of a configured delay in range reads the left word at RP_L, writes IN at WP_L left and the
read word at WP_R right, advances RP_L and WP_R, and raises ErrOrder when it is out of turn; of an unconfigured delay
it raises ErrOrder and does nothing else. Every other word of memory reads as before. -/
def Obligations.LeftRenderResult : Prop :=
  ∀ s : State,
    let d := s.dly
    let v := s.memRead .left d.rpL.toNat
    (s.status.dlyCfg = true → d.InRange → s.dmemL.wf = true → s.dmemR.wf = true → ∃ t : State,
      exec .dlyRenderL s = .next t ∧
      t.dly = { d with
        rpL := BitVec.ofNat 32 ((d.rpL.toNat + 1) % d.cap.toNat)
        wpR := BitVec.ofNat 32 ((d.wpR.toNat + 1) % d.cap.toNat)
        outL := v } ∧
      t.status = { s.status with dlyPhase := true, errOrder := s.status.errOrder || s.status.dlyPhase } ∧
      t.errCmd = (if s.status.dlyPhase then 0x21000000 else s.errCmd) ∧
      (∀ j, t.memRead .left j = if j = d.wpL.toNat then d.input else s.memRead .left j) ∧
      (∀ j, t.memRead .right j = if j = d.wpR.toNat then v else s.memRead .right j) ∧
      { t with dly := s.dly, status := s.status, errCmd := s.errCmd, dmemL := s.dmemL, dmemR := s.dmemR } = s) ∧
    (s.status.dlyCfg = false → exec .dlyRenderL s = .next
      { s with status := { s.status with errOrder := true }, errCmd := 0x21000000 })

/-- R262: DLY_RENDER_R of a configured delay in range reads the right word at RP_R, adds GAIN times it to the left
word at WP_L, advances RP_R and WP_L, and raises ErrOrder when it is out of turn; of an unconfigured delay it raises
ErrOrder and does nothing else. Every other word of memory reads as before, and all of the right memory is kept. -/
def Obligations.RightRenderResult : Prop :=
  ∀ s : State,
    let d := s.dly
    let v := s.memRead .right d.rpR.toNat
    (s.status.dlyCfg = true → d.InRange → s.dmemL.wf = true → ∃ t : State,
      exec .dlyRenderR s = .next t ∧
      t.dly = { d with
        rpR := BitVec.ofNat 32 ((d.rpR.toNat + 1) % d.cap.toNat)
        wpL := BitVec.ofNat 32 ((d.wpL.toNat + 1) % d.cap.toNat)
        outR := v } ∧
      t.status = { s.status with dlyPhase := false, errOrder := s.status.errOrder || !s.status.dlyPhase } ∧
      t.errCmd = (if s.status.dlyPhase then s.errCmd else 0x22000000) ∧
      (∀ j, t.memRead .left j =
        if j = d.wpL.toNat then fadd (s.memRead .left j) (fmul d.gain v) else s.memRead .left j) ∧
      { t with dly := s.dly, status := s.status, errCmd := s.errCmd, dmemL := s.dmemL } = s) ∧
    (s.status.dlyCfg = false → exec .dlyRenderR s = .next
      { s with status := { s.status with errOrder := true }, errCmd := 0x22000000 })

/-- R103: a render stops, and writes nothing, when a pointer it uses is outside the delay memory or the capacity of a
configured delay is 0, which no run reaches (the model's choice, log 6). -/
def Obligations.RenderStopsOutsideMemory : Prop :=
  ∀ s : State, s.status.dlyCfg = true →
    (s.dly.cap = 0 → exec .dlyRenderL s = .fault .delayCapacityZero ∧
      exec .dlyRenderR s = .fault .delayCapacityZero) ∧
    (s.dly.cap ≠ 0 → ∀ p ∈ [s.dly.rpL, s.dly.wpL, s.dly.wpR], 65536 ≤ p.toNat →
      ∃ n, 65536 ≤ n ∧ exec .dlyRenderL s = .fault (.delayIndex n)) ∧
    (s.dly.cap ≠ 0 → ∀ p ∈ [s.dly.rpR, s.dly.wpL], 65536 ≤ p.toNat →
      ∃ n, 65536 ≤ n ∧ exec .dlyRenderR s = .fault (.delayIndex n))

/-- R320: SNS_TICK in each calibration state: what the extremes, the state and the count become, column by column, and
that nothing else changes; on a Done sensor nothing changes at all. The count is compared as an integer (log 10). -/
def Obligations.SnsTickResult : Prop :=
  ∀ (sn : Fin 2) (s : State),
    let x := s.sns[sn.val]
    let reading := fun c : Fin 16 => s.ain[(x.colch[c.val]).val]
    let full : Prop := s.seq.calDur.toNat ≤ x.calCnt.toNat + 1
    (x.calState = .idle ∨ x.calState = .measuringMinima → ∃ y : Sensor,
      exec (.snsTick sn) s = .next { s with sns := s.sns.set sn.val y sn.isLt } ∧
      (∀ c : Fin 16, y.mins[c.val] =
        if c.val < s.build.dim ∧ fgt (reading c) x.mins[c.val] = true then reading c else x.mins[c.val]) ∧
      (full → y.calState = .measuringMaxima ∧ y.calCnt = 0) ∧
      (¬ full → y.calState = .measuringMinima ∧ y.calCnt.toNat = x.calCnt.toNat + 1) ∧
      y = { x with mins := y.mins, calState := y.calState, calCnt := y.calCnt }) ∧
    (x.calState = .measuringMaxima → ∃ y : Sensor,
      exec (.snsTick sn) s = .next { s with sns := s.sns.set sn.val y sn.isLt } ∧
      (∀ c : Fin 16, y.maxs[c.val] =
        if c.val < s.build.dim ∧ fgt (reading c) x.maxs[c.val] = true then reading c else x.maxs[c.val]) ∧
      (full → y.calState = .done ∧ y.calCnt = 0) ∧
      (¬ full → y.calState = .measuringMaxima ∧ y.calCnt.toNat = x.calCnt.toNat + 1) ∧
      y = { x with maxs := y.maxs, calState := y.calState, calCnt := y.calCnt }) ∧
    (x.calState = .done → exec (.snsTick sn) s = .next s)

/-- R300, R301, R321: SNS_SAMPLE of a Done sensor writes the normalised reading of every column into the effective
row, changes no other cell, and changes of the rest only the peak tracker of that sensor; of a calibrating sensor it
raises ErrOrder and does nothing else. A row not below DIM is the model's choice (log 8). -/
def Obligations.SnsSampleGridResult : Prop :=
  ∀ (sn : Fin 2) (row : BitVec 8) (s : State),
    let x := s.sns[sn.val]
    let value := fun c : Fin 16 =>
      if feq (fsub x.maxs[c.val] x.mins[c.val]) ZERO then ZERO
      else fdiv (fsub s.ain[(x.colch[c.val]).val] x.mins[c.val]) (fsub x.maxs[c.val] x.mins[c.val])
    (x.calState = .done → ∃ y : Sensor,
      exec (.snsSample sn row) s = .next { s with sns := s.sns.set sn.val y sn.isLt } ∧
      (∀ c r : Fin 16, (y.grid[c.val])[r.val] =
        if c.val < s.build.dim ∧ (r.val : Int) = ((row.toNat : Int) - s.build.lag) % s.build.dim then value c
        else (x.grid[c.val])[r.val]) ∧
      y = { x with grid := y.grid, peakVal := y.peakVal, peakCol := y.peakCol, peakRow := y.peakRow }) ∧
    (x.calState ≠ .done → exec (.snsSample sn row) s = .next
      { s with
        status := { s.status with errOrder := true }
        errCmd := 0x32000000 + BitVec.ofNat 32 (256 * row.toNat + sn.val) })

/-- R321: after SNS_SAMPLE of a Done sensor no column's value exceeds the tracked peak; the tracker is as it was when
no value exceeded it, and otherwise it is the first column of the largest value, in the effective row. A row not below
DIM is the model's choice (log 8). -/
def Obligations.SnsSampleTracksPeak : Prop :=
  ∀ (sn : Fin 2) (row : BitVec 8) (s t : State),
    let x := s.sns[sn.val]
    let y := t.sns[sn.val]
    let value := fun c : Fin 16 =>
      if feq (fsub x.maxs[c.val] x.mins[c.val]) ZERO then ZERO
      else fdiv (fsub s.ain[(x.colch[c.val]).val] x.mins[c.val]) (fsub x.maxs[c.val] x.mins[c.val])
    x.calState = .done → exec (.snsSample sn row) s = .next t →
      (∀ c : Fin 16, c.val < s.build.dim → fgt (value c) y.peakVal = false) ∧
      ((∀ c : Fin 16, c.val < s.build.dim → fgt (value c) x.peakVal = false) →
        y.peakVal = x.peakVal ∧ y.peakCol = x.peakCol ∧ y.peakRow = x.peakRow) ∧
      ((∃ c : Fin 16, c.val < s.build.dim ∧ fgt (value c) x.peakVal = true) →
        y.peakCol.val < s.build.dim ∧ y.peakVal = value y.peakCol ∧
        (y.peakRow.val : Int) = ((row.toNat : Int) - s.build.lag) % s.build.dim ∧
        fgt y.peakVal x.peakVal = true ∧
        ∀ c : Fin 16, c < y.peakCol → fge (value c) y.peakVal = false)

/-- R302, R322: SNS_RESOLVE of a Done sensor: the position from the grid around the peak, through the sensor's three
filters, the tracker reset, DEGEN set on a zero denominator, and nothing else; of a calibrating sensor it raises
ErrOrder and does nothing else. A peak outside the matrix, which no run reaches, is the model's choice (log 16). So is
that a sensor filter configured with FC = 0 follows the formula of R199 (log 19). -/
def Obligations.SnsResolveResult : Prop :=
  ∀ (sn : Fin 2) (s : State),
    let x := s.sns[sn.val]
    let n := s.build.dim
    let c := x.peakCol.val
    let r := x.peakRow.val
    let cell := fun a b : Nat => if h : a < 16 ∧ b < 16 then (x.grid[a]'h.1)[b]'h.2 else ZERO
    let den := fun α β γ : Word => fmul TWO (fadd (fsub γ (fmul TWO β)) α)
    let off := fun α β γ : Word => if feq (den α β γ) ZERO then ZERO else fdiv (fsub α γ) (den α β γ)
    let ax := if 0 < c then cell (c - 1) r else ZERO
    let gx := if c < n - 1 then cell (c + 1) r else ZERO
    let ay := if 0 < r then cell c (r - 1) else ZERO
    let gy := if r < n - 1 then cell c (r + 1) else ZERO
    let px := clamp01 (fdiv (fadd (itof c) (off ax (cell c r) gx)) (itof ((n : Int) - 1)))
    let py := clamp01 (fdiv (fadd (itof r) (off ay (cell c r) gy)) (itof ((n : Int) - 1)))
    let fx := s.flt[3 * sn.val]'(by omega)
    let fy := s.flt[3 * sn.val + 1]'(by omega)
    let fz := s.flt[3 * sn.val + 2]'(by omega)
    let met := feq (den ax (cell c r) gx) ZERO || feq (den ay (cell c r) gy) ZERO
    let flt1 := s.flt.set (3 * sn.val) (fx.lpShift px) (by omega)
    let flt2 := flt1.set (3 * sn.val + 1) (fy.lpShift py) (by omega)
    let flt3 := flt2.set (3 * sn.val + 2) (fz.lpShift x.peakVal) (by omega)
    let after : Sensor :=
      { x with
        posX := fx.lpOut px
        posY := fy.lpOut py
        posZ := fz.lpOut x.peakVal
        peakVal := 0x00000000
        peakCol := 0
        peakRow := 0 }
    (x.calState = .done → exec (.snsResolve sn) s = .next
      { s with
        status := { s.status with degen := s.status.degen || met }
        flt := flt3
        sns := s.sns.set sn.val after sn.isLt }) ∧
    (x.calState ≠ .done → exec (.snsResolve sn) s = .next
      { s with
        status := { s.status with errOrder := true }
        errCmd := 0x33000000 + BitVec.ofNat 32 sn.val })

/-- R310: SEQ_FRAME is one tick of SNS0 while it is not Done, else one tick of SNS1 while it is not Done, else row
ROW of both sensors, and after the last row both resolved, ROW back to 0 and CYCLES counted. -/
def Obligations.SeqFrameResult : Prop :=
  ∀ s : State,
    ((s.sns[0]).calState ≠ .done → exec .seqFrame s = exec (.snsTick 0) s) ∧
    ((s.sns[0]).calState = .done → (s.sns[1]).calState ≠ .done → exec .seqFrame s = exec (.snsTick 1) s) ∧
    ((s.sns[0]).calState = .done → (s.sns[1]).calState = .done → ∃ t1 t2 : State,
      exec (.snsSample 0 (BitVec.ofNat 8 s.seq.row.val)) s = .next t1 ∧
      exec (.snsSample 1 (BitVec.ofNat 8 s.seq.row.val)) t1 = .next t2 ∧
      (s.seq.row.val ≠ s.build.dim - 1 →
        exec .seqFrame s = .next { t2 with seq := { t2.seq with row := t2.seq.row + 1 } }) ∧
      (s.seq.row.val = s.build.dim - 1 → ∃ t3 t4 : State,
        exec (.snsResolve 0) t2 = .next t3 ∧ exec (.snsResolve 1) t3 = .next t4 ∧
        exec .seqFrame s = .next
          { t4 with seq := { t4.seq with row := 0, cycles := t4.seq.cycles + 1 } }))

/-! ## Laws of the units -/

/-- R231: a phase in [0, TWO_PI) stays there when the rounded increment is strictly between −TWO_PI and TWO_PI. -/
def Obligations.PhaseStaysInRange : Prop :=
  ∀ (k : Fin 2) (s : State),
    let o := s.osc[k.val]
    let inc := fdiv (fmul TWO_PI o.freq) o.fs
    let p' := ((nextSample k s).osc[k.val]).phase
    fge o.phase ZERO = true → flt o.phase TWO_PI = true → flt (fneg TWO_PI) inc = true → flt inc TWO_PI = true →
      fge p' ZERO = true ∧ flt p' TWO_PI = true

/-- R323: with CAL_DUR = D ≥ 1 a sensor that starts Idle is Done after exactly 2D ticks, through D ticks of
minima and D of maxima; with CAL_DUR = 0 it is Done after two. -/
def Obligations.CalibrationLength : Prop :=
  (∀ (sn : Fin 2) (s : State) (d n : Nat), (s.sns[sn.val]).calState = .idle → (s.sns[sn.val]).calCnt = 0 →
    s.seq.calDur.toNat = d → 1 ≤ d → n ≤ 2 * d → ∃ t : State,
      execAll (List.replicate n (.snsTick sn)) s = .next t ∧
      (n = 0 → (t.sns[sn.val]).calState = .idle) ∧
      (1 ≤ n → n < d → (t.sns[sn.val]).calState = .measuringMinima ∧ (t.sns[sn.val]).calCnt.toNat = n) ∧
      (d ≤ n → n < 2 * d →
        (t.sns[sn.val]).calState = .measuringMaxima ∧ (t.sns[sn.val]).calCnt.toNat = n - d) ∧
      (n = 2 * d → (t.sns[sn.val]).calState = .done ∧ (t.sns[sn.val]).calCnt = 0)) ∧
  (∀ (sn : Fin 2) (s : State), (s.sns[sn.val]).calState = .idle → (s.sns[sn.val]).calCnt = 0 →
    s.seq.calDur = 0 → ∃ t : State, execAll [.snsTick sn, .snsTick sn] s = .next t ∧
      (t.sns[sn.val]).calState = .done)

/-- R311: under SEQ_FRAME alone with CAL_DUR = D ≥ 1, from both sensors Idle and ROW = CYCLES = 0, SNS0 is Done after
exactly 2D frames and SNS1 after exactly 4D; from there ROW and CYCLES count the frames. Until frame 4D nothing is
sampled or resolved; the calibration of SNS0 does not change after frame 2D, nor that of SNS1 after frame 4D. The
frame after the first n resolves both sensors and counts a cycle when n + 1 is 4D + DIM or a later multiple of DIM
from 4D, and otherwise keeps every position, every filter and CYCLES. -/
def Obligations.FrameAccounting : Prop :=
  ∀ (s : State) (d n : Nat), (s.sns[0]).calState = .idle → (s.sns[1]).calState = .idle →
    (s.sns[0]).calCnt = 0 → (s.sns[1]).calCnt = 0 → s.seq.row = 0 → s.seq.cycles = 0 →
    s.seq.calDur.toNat = d → 1 ≤ d → ∃ t : State,
      execAll (List.replicate n .seqFrame) s = .next t ∧
      ((t.sns[0]).calState = .done ↔ 2 * d ≤ n) ∧
      ((t.sns[1]).calState = .done ↔ 4 * d ≤ n) ∧
      t.seq.row.val = (n - 4 * d) % s.build.dim ∧
      t.seq.cycles.toNat = (n - 4 * d) / s.build.dim % 2 ^ 32 ∧
      (n ≤ 4 * d → ∀ sn : Fin 2, (t.sns[sn.val]).grid = (s.sns[sn.val]).grid ∧
        (t.sns[sn.val]).peakVal = (s.sns[sn.val]).peakVal ∧
        (t.sns[sn.val]).peakCol = (s.sns[sn.val]).peakCol ∧ (t.sns[sn.val]).peakRow = (s.sns[sn.val]).peakRow ∧ (t.sns[sn.val]).posX = (s.sns[sn.val]).posX ∧
        (t.sns[sn.val]).posY = (s.sns[sn.val]).posY ∧ (t.sns[sn.val]).posZ = (s.sns[sn.val]).posZ) ∧
      (2 * d ≤ n → ∃ u : State, execAll (List.replicate (2 * d) .seqFrame) s = .next u ∧
        (t.sns[0]).calState = (u.sns[0]).calState ∧ (t.sns[0]).calCnt = (u.sns[0]).calCnt ∧
        (t.sns[0]).mins = (u.sns[0]).mins ∧ (t.sns[0]).maxs = (u.sns[0]).maxs) ∧
      (4 * d ≤ n → ∃ u : State, execAll (List.replicate (4 * d) .seqFrame) s = .next u ∧
        ∀ sn : Fin 2, (t.sns[sn.val]).calState = (u.sns[sn.val]).calState ∧
          (t.sns[sn.val]).calCnt = (u.sns[sn.val]).calCnt ∧ (t.sns[sn.val]).mins = (u.sns[sn.val]).mins ∧
          (t.sns[sn.val]).maxs = (u.sns[sn.val]).maxs) ∧
      ∃ u : State, exec .seqFrame t = .next u ∧
        (4 * d ≤ n → (n + 1 - 4 * d) % s.build.dim = 0 → ∃ t1 t2 t3 t4 : State,
          exec (.snsSample 0 (BitVec.ofNat 8 t.seq.row.val)) t = .next t1 ∧
          exec (.snsSample 1 (BitVec.ofNat 8 t.seq.row.val)) t1 = .next t2 ∧
          exec (.snsResolve 0) t2 = .next t3 ∧ exec (.snsResolve 1) t3 = .next t4 ∧
          u = { t4 with seq := { t4.seq with row := 0, cycles := t4.seq.cycles + 1 } }) ∧
        (n < 4 * d ∨ (n + 1 - 4 * d) % s.build.dim ≠ 0 → u.flt = t.flt ∧ u.seq.cycles = t.seq.cycles ∧
          ∀ sn : Fin 2, (u.sns[sn.val]).posX = (t.sns[sn.val]).posX ∧
            (u.sns[sn.val]).posY = (t.sns[sn.val]).posY ∧ (u.sns[sn.val]).posZ = (t.sns[sn.val]).posZ)

/-- R263: a complete pair of renders in turn keeps every pointer below CAP, the two write pointers and the two read
pointers equal, and each read pointer LEN mod CAP behind its write pointer; it raises nothing. -/
def Obligations.RenderPairKeepsPointerDistance : Prop :=
  ∀ (s : State), s.status.dlyCfg = true → s.status.dlyPhase = false → s.dly.InRange →
    s.dly.wpL = s.dly.wpR → s.dly.rpL = s.dly.rpR →
    ((s.dly.wpL.toNat : Int) - s.dly.rpL.toNat) % s.dly.cap.toNat = s.dly.len.toInt % s.dly.cap.toNat →
    ∃ t : State, execAll [.dlyRenderL, .dlyRenderR] s = .next t ∧
      t.dly.InRange ∧ t.dly.cap = s.dly.cap ∧ t.dly.len = s.dly.len ∧
      t.dly.wpL = t.dly.wpR ∧ t.dly.rpL = t.dly.rpR ∧
      ((t.dly.wpL.toNat : Int) - t.dly.rpL.toNat) % t.dly.cap.toNat = t.dly.len.toInt % t.dly.cap.toNat ∧
      t.status = s.status ∧ t.errCmd = s.errCmd

/-- R264: from a freshly configured delay, when the words that the first M pairs read are zero, the left output of
pair n is the input of pair n − M plus the gain times the right output of that pair, and the right output of pair n
is the left output of pair n − m, bit for bit, where m = LEN mod CAP and M = m, or CAP when m is 0. -/
def Obligations.DelayImpulseResponse : Prop :=
  ∀ (s : State) (ins : List Word), s.status.dlyCfg = true → s.dly.InRange →
    s.dmemL.wf = true → s.dmemR.wf = true →
    s.dly.wpL = 0 → s.dly.wpR = 0 →
    (s.dly.rpL.toNat : Int) = (-s.dly.len.toInt) % s.dly.cap.toNat → s.dly.rpR = s.dly.rpL →
    let out := pairOutputs ins s
    let m := (s.dly.len.toInt % s.dly.cap.toNat).toNat
    let big := if m = 0 then s.dly.cap.toNat else m
    (∀ n, n < big → s.memRead .left ((s.dly.rpL.toNat + n) % s.dly.cap.toNat) = 0) →
    (∀ n, n < m → s.memRead .right ((s.dly.rpR.toNat + n) % s.dly.cap.toNat) = 0) →
    out.length = ins.length ∧
    ∀ n, n < ins.length →
      (out.getD n (0, 0)).1 =
        (if n < big then 0 else fadd (ins.getD (n - big) 0) (fmul s.dly.gain (out.getD (n - big) (0, 0)).2)) ∧
      (out.getD n (0, 0)).2 = (if n < m then 0 else (out.getD (n - m) (0, 0)).1)

/-- R467: with GAIN a zero, IN = +0.0 and every word finite, 2·CAP pairs of renders leave words 0 to CAP − 1 of both
channels +0.0. -/
def Obligations.SilentPairsClearDelayMemory : Prop :=
  ∀ s : State, s.status.dlyCfg = true → s.dly.InRange → s.dmemL.wf = true → s.dmemR.wf = true →
    isZero s.dly.gain = true → s.dly.input = 0 →
    (∀ ch j, isFinite (s.memRead ch j) = true) →
    ∃ t : State, execAll (List.replicate (2 * s.dly.cap.toNat) [Instr.dlyRenderL, Instr.dlyRenderR]).flatten s =
        .next t ∧
      ∀ (ch : Channel) (j : Nat), j < s.dly.cap.toNat → t.memRead ch j = 0

/-- R303: Interp(v, 2v, v) is a zero for every finite v, and its denominator is a zero only when v is. -/
def Obligations.SymmetricPeakHasZeroOffset : Prop :=
  ∀ v : Word, isFinite v = true →
    isZero (interp v (fmul TWO v) v).1 = true ∧ (interp v (fmul TWO v) v).2 = isZero v

/-- R406: resolving a Done sensor whose grid is all +0.0 and whose tracker is reset sets DEGEN, keeps ERR_CMD, and
feeds +0.0 to the sensor's x, y and z filters. -/
def Obligations.FlatGridIsDegenerate : Prop :=
  ∀ (sn : Fin 2) (s : State),
    let x := s.sns[sn.val]
    x.calState = .done → x.grid = Vector.replicate 16 (Vector.replicate 16 0) → x.peakVal = 0 →
    x.peakCol = 0 → x.peakRow = 0 → ∃ t : State,
      exec (.snsResolve sn) s = .next t ∧ t.status.degen = true ∧ t.errCmd = s.errCmd ∧
      (t.flt[3 * sn.val]'(by omega)).x1 = 0 ∧ (t.flt[3 * sn.val + 1]'(by omega)).x1 = 0 ∧
      (t.flt[3 * sn.val + 2]'(by omega)).x1 = 0

/-- R200: a filter configured with FS = ±0.0 has NaN coefficients, and its next output is NaN, whatever FC and IN
are. -/
def Obligations.ZeroRateFilterIsNaN : Prop :=
  ∀ (i : Fin 8) (s : State), isZero (s.flt[i.val]).fs = true → ∃ t u : State,
    exec (.fltConfig i) s = .next t ∧ exec (.fltApply i) t = .next u ∧
    (t.flt[i.val]).b0 = 0x7FC00000 ∧ (t.flt[i.val]).b1 = 0x7FC00000 ∧ (t.flt[i.val]).b2 = 0x7FC00000 ∧
    (t.flt[i.val]).a0 = 0x7FC00000 ∧ (t.flt[i.val]).a1 = 0x7FC00000 ∧ (t.flt[i.val]).a2 = 0x7FC00000 ∧
    (u.flt[i.val]).output = 0x7FC00000

/-! ## Numbers -/

/-- R9: fadd and fsub of finite operands are the exact sum and difference rounded to nearest even; an exact zero sum
is +0.0 unless both operands are negative. Signs of zeros and the special values R9 does not list follow IEEE 754 (log
12). -/
def Obligations.AdditionRoundsCorrectly : Prop :=
  ∀ a b : Word, isFinite a = true → isFinite b = true →
    RoundsTo (toRat a + toRat b) (fadd a b) ∧ RoundsTo (toRat a - toRat b) (fsub a b) ∧
    (toRat a + toRat b = 0 → fadd a b = if fsign a && fsign b then 0x80000000 else 0x00000000)

/-- R9: fmul of finite operands is the exact product rounded to nearest even; a zero product takes the sign of the
signs. Signs of zeros and the special values R9 does not list follow IEEE 754 (log 12). -/
def Obligations.MultiplicationRoundsCorrectly : Prop :=
  ∀ a b : Word, isFinite a = true → isFinite b = true →
    RoundsTo (toRat a * toRat b) (fmul a b) ∧ fsign (fmul a b) = (fsign a != fsign b)

/-- R9: fdiv of a finite operand by a finite non-zero one is the exact quotient rounded to nearest even; a zero
quotient takes the sign of the signs. Signs of zeros and the special values R9 does not list follow IEEE 754 (log 12).
-/
def Obligations.DivisionRoundsCorrectly : Prop :=
  ∀ a b : Word, isFinite a = true → isFinite b = true → isZero b = false →
    RoundsTo (toRat a / toRat b) (fdiv a b) ∧ fsign (fdiv a b) = (fsign a != fsign b)

/-- R9, R6: the arithmetic and the two OPEN functions on NaN, infinities and zeros: x/0 for finite non-zero x, 0/0,
inf − inf, sums, differences, products and quotients with an infinite operand, any operation on a NaN, and the values
R6 states of NUM_SIN and NUM_TAN. Signs of zeros and the special values R9 does not list follow IEEE 754 (log 12);
that the NaN of NUM_SIN and NUM_TAN is the canonical one is read from R9 (log 4). -/
def Obligations.SpecialValueRules : Prop :=
  (∀ x z : Word, isFinite x = true → isZero x = false → isZero z = true →
    fdiv x z = finf (fsign x != fsign z)) ∧
  (∀ y z : Word, isZero y = true → isZero z = true → fdiv y z = 0x7FC00000) ∧
  (∀ x y : Word, isInf x = true → isInf y = true → fdiv x y = 0x7FC00000) ∧
  (∀ neg : Bool, fsub (finf neg) (finf neg) = 0x7FC00000) ∧
  (∀ x z : Word, isInf x = true → isZero z = true → fmul x z = 0x7FC00000 ∧ fmul z x = 0x7FC00000) ∧
  (∀ a b : Word, isNaN a = true ∨ isNaN b = true →
    fadd a b = 0x7FC00000 ∧ fsub a b = 0x7FC00000 ∧ fmul a b = 0x7FC00000 ∧ fdiv a b = 0x7FC00000) ∧
  (finf false = 0x7F800000 ∧ finf true = 0xFF800000) ∧
  (∀ (neg : Bool) (y : Word), isFinite y = true →
    fadd (finf neg) y = finf neg ∧ fadd y (finf neg) = finf neg ∧ fsub (finf neg) y = finf neg ∧
    fsub y (finf neg) = finf (!neg)) ∧
  (∀ neg : Bool, fadd (finf neg) (finf neg) = finf neg ∧ fadd (finf neg) (finf (!neg)) = 0x7FC00000 ∧
    fsub (finf neg) (finf (!neg)) = finf neg) ∧
  (∀ (neg : Bool) (y : Word), isNaN y = false → isZero y = false →
    fmul (finf neg) y = finf (neg != fsign y) ∧ fmul y (finf neg) = finf (neg != fsign y)) ∧
  (∀ (neg : Bool) (y : Word), isFinite y = true →
    fdiv (finf neg) y = finf (neg != fsign y) ∧
    fdiv y (finf neg) = if neg != fsign y then 0x80000000 else 0x00000000) ∧
  (numSin 0x00000000 = 0x00000000 ∧ numSin 0x80000000 = 0x80000000 ∧ numTan 0x00000000 = 0x00000000) ∧
  (∀ x : Word, isNaN x = true ∨ isInf x = true → numSin x = 0x7FC00000 ∧ numTan x = 0x7FC00000)

/-- R9: a result that is a NaN is the canonical quiet NaN, for every operand. -/
def Obligations.NaNResultsAreCanonical : Prop :=
  ∀ a b : Word,
    (isNaN (fadd a b) = true → fadd a b = 0x7FC00000) ∧ (isNaN (fsub a b) = true → fsub a b = 0x7FC00000) ∧
    (isNaN (fmul a b) = true → fmul a b = 0x7FC00000) ∧ (isNaN (fdiv a b) = true → fdiv a b = 0x7FC00000)

/-- R9: the comparisons order the numbers, −inf below and +inf above every finite number and each equal to itself
alone, and are false on NaN; +0.0 == −0.0. -/
def Obligations.ComparisonsOrderTheNumbers : Prop :=
  (∀ a b : Word, isFinite a = true → isFinite b = true →
    (flt a b = true ↔ toRat a < toRat b) ∧ (fgt a b = true ↔ toRat b < toRat a) ∧
    (fge a b = true ↔ toRat b ≤ toRat a) ∧ (feq a b = true ↔ toRat a = toRat b)) ∧
  (∀ a : Word, isFinite a = true →
    (flt a (finf false) = true ∧ fgt a (finf false) = false ∧ fge a (finf false) = false ∧
      feq a (finf false) = false) ∧
    (flt (finf false) a = false ∧ fgt (finf false) a = true ∧ fge (finf false) a = true ∧
      feq (finf false) a = false) ∧
    (flt a (finf true) = false ∧ fgt a (finf true) = true ∧ fge a (finf true) = true ∧
      feq a (finf true) = false) ∧
    (flt (finf true) a = true ∧ fgt (finf true) a = false ∧ fge (finf true) a = false ∧
      feq (finf true) a = false)) ∧
  (∀ p q : Bool, flt (finf p) (finf q) = (p && !q) ∧ fgt (finf p) (finf q) = (!p && q) ∧
    fge (finf p) (finf q) = (!p || q) ∧ feq (finf p) (finf q) = (p == q)) ∧
  (∀ a b : Word, isNaN a = true ∨ isNaN b = true →
    flt a b = false ∧ fgt a b = false ∧ fge a b = false ∧ feq a b = false)

/-- R9: itof is exact for magnitudes up to 2^24. -/
def Obligations.SmallIntegersConvertExactly : Prop :=
  ∀ n : Int, n.natAbs ≤ 2 ^ 24 → isFinite (itof n) = true ∧ toRat (itof n) = n

/-- R9: ftoi_trunc rounds a finite number toward zero. -/
def Obligations.TruncationIsTowardZero : Prop :=
  ∀ v : Word, isFinite v = true →
    ftoiTrunc v = if 0 ≤ toRat v then ⌊toRat v⌋ else ⌈toRat v⌉

/-- R11: clamp01 of v < 0 is +0.0, of v > 1 is 1.0, and of any other v is v, a NaN and −0.0 included; so the result
lies in [0, 1] unless v is a NaN. -/
def Obligations.ClampLandsInUnitInterval : Prop :=
  ∀ v : Word,
    (isNaN v = false → fge (clamp01 v) ZERO = true ∧ fge ONE (clamp01 v) = true) ∧
    (flt v ZERO = true → clamp01 v = 0x00000000) ∧ (fgt v ONE = true → clamp01 v = 0x3F800000) ∧
    (flt v ZERO = false → fgt v ONE = false → clamp01 v = v) ∧
    (fge v ZERO = true → fge ONE v = true → clamp01 v = v) ∧ (isNaN v = true → clamp01 v = v) ∧
    clamp01 0x80000000 = 0x80000000

/-! ## The whole machine -/

/-- The invariant holds after reset, in every build and in the one of State.reset. -/
def Obligations.InvariantHoldsAtReset : Prop :=
  (∀ b : Build, (State.resetOf b).Inv) ∧ State.reset.Inv

/-- R49, R55, R61 to R64, R101, R263: every step, of every command and every host access, keeps the invariant. What is
pending on the port is the model's own list (log 1). -/
def Obligations.StepKeepsInvariant : Prop :=
  ∀ s t : State, s.Inv → step s = .next t → t.Inv

/-- R350, R263: a machine that meets the invariant never stops: any number of steps answers a next state, which meets
the invariant too. What is pending on the port is the model's own list (log 1). -/
def Obligations.RunsNeverStop : Prop :=
  ∀ (n : Nat) (s : State), s.Inv → ∃ t : State, core.run n s = .next t ∧ State.Inv t

/-- R37, R45, R48, R64, R70, R453: no command writes an operand register of the host, but for FM_STEP, which writes
OSC0.FREQ; and no command touches the build, the port or the last word read. What is pending on the port and the word
last read are the model's own (log 1, log 2). -/
def Obligations.CommandsLeaveHostRegisters : Prop :=
  ∀ (i : Instr) (s t : State), exec i s = .next t →
    t.build = s.build ∧ t.port = s.port ∧ t.readData = s.readData ∧ t.ain = s.ain ∧
    t.seq.calDur = s.seq.calDur ∧ t.fm.carBase = s.fm.carBase ∧
    t.dly.fs = s.dly.fs ∧ t.dly.sec = s.dly.sec ∧ t.dly.gain = s.dly.gain ∧ t.dly.input = s.dly.input ∧
    (∀ j : Fin 8, (t.flt[j.val]).fs = (s.flt[j.val]).fs ∧ (t.flt[j.val]).fc = (s.flt[j.val]).fc ∧
      (t.flt[j.val]).input = (s.flt[j.val]).input) ∧
    (∀ j : Fin 2, (t.sns[j.val]).colch = (s.sns[j.val]).colch) ∧
    (∀ j : Fin 2, (t.osc[j.val]).fs = (s.osc[j.val]).fs ∧ (t.osc[j.val]).amp = (s.osc[j.val]).amp ∧
      (i ≠ .fmStep ∨ j = 1 → (t.osc[j.val]).freq = (s.osc[j.val]).freq)) ∧
    t.status.oscCfg = s.status.oscCfg

/-- R101: only the two renders change the delay memory: after any other command every word of both channels reads as
before; and the right render changes no word of the right channel. -/
def Obligations.OnlyRendersChangeDelayMemory : Prop :=
  ∀ (i : Instr) (s t : State), exec i s = .next t →
    (i ≠ .dlyRenderL → i ≠ .dlyRenderR → ∀ ch j, t.memRead ch j = s.memRead ch j) ∧
    (i = .dlyRenderR → ∀ j, t.memRead .right j = s.memRead .right j)

/-- R30, R46, R60 to R65: the frame of every command, unit by unit: a unit the command's rule does not name keeps all
its registers. -/
def Obligations.CommandsTouchOnlyTheirUnit : Prop :=
  ∀ (i : Instr) (s t : State), exec i s = .next t →
    (∀ k j : Fin 2, i = .oscStep k → j ≠ k → t.osc[j.val] = s.osc[j.val]) ∧
    ((∀ k, i ≠ .oscStep k) → i ≠ .fmStep → t.osc = s.osc) ∧
    (i ≠ .fmStep → t.fm = s.fm) ∧
    (∀ n j : Fin 8, i = .fltConfig n ∨ i = .fltApply n → j ≠ n → t.flt[j.val] = s.flt[j.val]) ∧
    (∀ (sn : Fin 2) (j : Fin 8), i = .snsResolve sn → j.val / 3 ≠ sn.val → t.flt[j.val] = s.flt[j.val]) ∧
    (∀ j : Fin 8, i = .seqFrame → 6 ≤ j.val → t.flt[j.val] = s.flt[j.val]) ∧
    ((∀ n, i ≠ .fltConfig n ∧ i ≠ .fltApply n) → (∀ sn, i ≠ .snsResolve sn) → i ≠ .seqFrame → t.flt = s.flt) ∧
    (i ≠ .dlyConfig → i ≠ .dlyRenderL → i ≠ .dlyRenderR → t.dly = s.dly ∧
      t.status.dlyPhase = s.status.dlyPhase ∧ t.status.dlyCfg = s.status.dlyCfg) ∧
    (i ≠ .seqFrame → t.seq = s.seq) ∧
    (∀ (sn j : Fin 2) (row : BitVec 8), i = .snsTick sn ∨ i = .snsSample sn row ∨ i = .snsResolve sn → j ≠ sn →
      t.sns[j.val] = s.sns[j.val]) ∧
    ((∀ (sn : Fin 2) (row : BitVec 8), i ≠ .snsTick sn ∧ i ≠ .snsSample sn row ∧ i ≠ .snsResolve sn) →
      i ≠ .seqFrame → t.sns = s.sns)

/-- R400, R402, R408: exactly when a legal command raises ErrOrder or ErrConfig, never both, with its own word in
ERR_CMD; it never raises ErrIllegal, and only SNS_RESOLVE and SEQ_FRAME can set DEGEN. -/
def Obligations.ErrorsRaisedExactly : Prop :=
  ∀ (i : Instr) (s t : State), exec i s = .next t →
    let order : Bool := match i with
      | .oscStep k => !s.status.oscCfg[k.val]
      | .fmStep => !s.status.oscCfg[0] || !s.status.oscCfg[1]
      | .dlyRenderL => !s.status.dlyCfg || s.status.dlyPhase
      | .dlyRenderR => !s.status.dlyCfg || !s.status.dlyPhase
      | .snsSample sn _ => decide ((s.sns[sn.val]).calState ≠ .done)
      | .snsResolve sn => decide ((s.sns[sn.val]).calState ≠ .done)
      | .nop | .fltConfig _ | .fltApply _ | .dlyConfig | .seqFrame | .snsTick _ => false
    let config : Bool := match i with
      | .dlyConfig => s.dly.plan.isNone
      | _ => false
    t.status.errIllegal = s.status.errIllegal ∧
    t.status.errOrder = (s.status.errOrder || order) ∧ t.status.errConfig = (s.status.errConfig || config) ∧
    (order && config) = false ∧ t.errCmd = (if order || config then encode i else s.errCmd) ∧
    ((∀ sn, i ≠ .snsResolve sn) → i ≠ .seqFrame → t.status.degen = s.status.degen) ∧
    (order = true → t.status.degen = s.status.degen)

/-- R407: a step clears a sticky bit only when it takes a write of STATUS with that bit 1, or a reset; and it makes a
non-zero ERR_CMD zero only when it takes a reset. What is pending on the port is the model's own list (log 1). -/
def Obligations.StickyBitsClearedOnlyByHost : Prop :=
  ∀ s t : State, step s = .next t → s.port.head? ≠ some .reset →
    (s.status.errIllegal = true → t.status.errIllegal = true ∨
      ∃ v, s.port.head? = some (.write 3 v) ∧ v.getLsbD 0 = true) ∧
    (s.status.errConfig = true → t.status.errConfig = true ∨
      ∃ v, s.port.head? = some (.write 3 v) ∧ v.getLsbD 1 = true) ∧
    (s.status.errOrder = true → t.status.errOrder = true ∨
      ∃ v, s.port.head? = some (.write 3 v) ∧ v.getLsbD 2 = true) ∧
    (s.status.degen = true → t.status.degen = true ∨
      ∃ v, s.port.head? = some (.write 3 v) ∧ v.getLsbD 3 = true) ∧
    (s.errCmd ≠ 0 → t.errCmd ≠ 0)

/-- R75, R407: no command's result depends on a sticky bit or on ERR_CMD: two states that differ in nothing else give
outcomes that differ in nothing else. -/
def Obligations.ResultsIndependentOfStickyBits : Prop :=
  ∀ (i : Instr) (s₁ s₂ : State), forgetErrors s₁ = forgetErrors s₂ → observed (exec i s₁) = observed (exec i s₂)

/-- R60, R320, R452: no step but a reset takes a sensor out of Done or changes a Done sensor's calibration values.
What is pending on the port is the model's own list (log 1). -/
def Obligations.DoneIsTerminal : Prop :=
  ∀ (s t : State) (sn : Fin 2), (s.sns[sn.val]).calState = .done → step s = .next t →
    s.port.head? ≠ some .reset →
    (t.sns[sn.val]).calState = .done ∧ (t.sns[sn.val]).calCnt = (s.sns[sn.val]).calCnt ∧
    (t.sns[sn.val]).mins = (s.sns[sn.val]).mins ∧ (t.sns[sn.val]).maxs = (s.sns[sn.val]).maxs

/-- R72: exactly one row-drive line is high, that of ROW, in every state that meets the invariant. -/
def Obligations.ExactlyOneRowIsDriven : Prop :=
  ∀ s : State, s.Inv → ∀ r : Fin 16, rowDrive s r = true ↔ r = s.seq.row
end

