-- ==== Sys2Proof/Laws/Float.lean ====
section
/-!
SUPPORT. The comparisons as an order on the patterns that are not NaN, and the classes of the fixed patterns.
-/

namespace Sys2Proof.Machine

theorem flt_iff (a b : Word) : flt a b = true ↔ isNaN a = false ∧ isNaN b = false ∧ fkey a < fkey b := by
  simp [flt, and_assoc]

theorem fgt_iff (a b : Word) : fgt a b = true ↔ isNaN a = false ∧ isNaN b = false ∧ fkey b < fkey a := by
  rw [fgt, flt_iff]; tauto

theorem fge_iff (a b : Word) : fge a b = true ↔ isNaN a = false ∧ isNaN b = false ∧ fkey b ≤ fkey a := by
  simp [fge, and_assoc]

theorem feq_iff (a b : Word) : feq a b = true ↔ isNaN a = false ∧ isNaN b = false ∧ fkey a = fkey b := by
  simp [feq, and_assoc]

theorem fgt_trans {a b c : Word} (h : fgt a b = true) (h' : fgt b c = true) : fgt a c = true := by
  rw [fgt_iff] at *; exact ⟨h.1, h'.2.1, lt_trans h'.2.2 h.2.2⟩

theorem fgt_of_fgt_of_fge {a b c : Word} (h : fgt a b = true) (h' : fge b c = true) : fgt a c = true := by
  rw [fgt_iff] at *; rw [fge_iff] at h'; exact ⟨h.1, h'.2.1, lt_of_le_of_lt h'.2.2 h.2.2⟩

theorem fge_of_fgt {a b : Word} (h : fgt a b = true) : fge a b = true := by
  rw [fgt_iff] at h; rw [fge_iff]; exact ⟨h.1, h.2.1, h.2.2.le⟩

theorem fge_trans {a b c : Word} (h : fge a b = true) (h' : fge b c = true) : fge a c = true := by
  rw [fge_iff] at *; exact ⟨h.1, h'.2.1, le_trans h'.2.2 h.2.2⟩

theorem fge_refl {a : Word} (h : isNaN a = false) : fge a a = true := by
  rw [fge_iff]; exact ⟨h, h, le_refl _⟩

theorem fgt_irrefl (a : Word) : fgt a a = false := by simp [fgt, flt]

theorem fge_zero_zero : fge ZERO ZERO = true := by decide

/-- A finite pattern is no NaN and no infinity. -/
theorem isFinite_iff (x : Word) : isFinite x = true ↔ isNaN x = false ∧ isInf x = false := by
  by_cases h : fexp x = 255 <;> by_cases h' : ffrac x = 0 <;> simp [isFinite, isNaN, isInf, h, h']

/-- A zero is finite. -/
theorem isFinite_of_isZero {x : Word} (h : isZero x = true) : isFinite x = true := by
  simp only [isZero, Bool.and_eq_true, beq_iff_eq] at h
  simp [isFinite, h.1]

/-- The two infinities: their class, their sign, and the change of sign. -/
theorem finf_class (neg : Bool) :
    isInf (finf neg) = true ∧ isNaN (finf neg) = false ∧ isZero (finf neg) = false ∧ fsign (finf neg) = neg ∧
      fneg (finf neg) = finf (!neg) := by revert neg; decide

theorem isNaN_qNaN : isNaN qNaN = true := by decide

end Sys2Proof.Machine
end

