-- ==== Sys2Proof/Laws/State.lean ====
section
/-!
SUPPORT. What each named write of State does to each field, one lemma per field, so that no proof unfolds a
record update.
-/

namespace Sys2Proof.Machine

/-! setStatus -/

@[simp] theorem State.setStatus_build (st : Status) (s : State) : (s.setStatus st).build = s.build := rfl
@[simp] theorem State.setStatus_status (st : Status) (s : State) : (s.setStatus st).status = st := rfl
@[simp] theorem State.setStatus_errCmd (st : Status) (s : State) : (s.setStatus st).errCmd = s.errCmd := rfl
@[simp] theorem State.setStatus_osc (st : Status) (s : State) : (s.setStatus st).osc = s.osc := rfl
@[simp] theorem State.setStatus_fm (st : Status) (s : State) : (s.setStatus st).fm = s.fm := rfl
@[simp] theorem State.setStatus_flt (st : Status) (s : State) : (s.setStatus st).flt = s.flt := rfl
@[simp] theorem State.setStatus_dly (st : Status) (s : State) : (s.setStatus st).dly = s.dly := rfl
@[simp] theorem State.setStatus_dmemL (st : Status) (s : State) : (s.setStatus st).dmemL = s.dmemL := rfl
@[simp] theorem State.setStatus_dmemR (st : Status) (s : State) : (s.setStatus st).dmemR = s.dmemR := rfl
@[simp] theorem State.setStatus_seq (st : Status) (s : State) : (s.setStatus st).seq = s.seq := rfl
@[simp] theorem State.setStatus_ain (st : Status) (s : State) : (s.setStatus st).ain = s.ain := rfl
@[simp] theorem State.setStatus_sns (st : Status) (s : State) : (s.setStatus st).sns = s.sns := rfl
@[simp] theorem State.setStatus_port (st : Status) (s : State) : (s.setStatus st).port = s.port := rfl
@[simp] theorem State.setStatus_readData (st : Status) (s : State) : (s.setStatus st).readData = s.readData := rfl

/-! setOsc -/

@[simp] theorem State.setOsc_build (k : Fin 2) (o : Osc) (s : State) : (s.setOsc k o).build = s.build := rfl
@[simp] theorem State.setOsc_status (k : Fin 2) (o : Osc) (s : State) : (s.setOsc k o).status = s.status := rfl
@[simp] theorem State.setOsc_errCmd (k : Fin 2) (o : Osc) (s : State) : (s.setOsc k o).errCmd = s.errCmd := rfl
@[simp] theorem State.setOsc_osc (k : Fin 2) (o : Osc) (s : State) : (s.setOsc k o).osc = s.osc.set k.val o k.isLt := rfl
@[simp] theorem State.setOsc_fm (k : Fin 2) (o : Osc) (s : State) : (s.setOsc k o).fm = s.fm := rfl
@[simp] theorem State.setOsc_flt (k : Fin 2) (o : Osc) (s : State) : (s.setOsc k o).flt = s.flt := rfl
@[simp] theorem State.setOsc_dly (k : Fin 2) (o : Osc) (s : State) : (s.setOsc k o).dly = s.dly := rfl
@[simp] theorem State.setOsc_dmemL (k : Fin 2) (o : Osc) (s : State) : (s.setOsc k o).dmemL = s.dmemL := rfl
@[simp] theorem State.setOsc_dmemR (k : Fin 2) (o : Osc) (s : State) : (s.setOsc k o).dmemR = s.dmemR := rfl
@[simp] theorem State.setOsc_seq (k : Fin 2) (o : Osc) (s : State) : (s.setOsc k o).seq = s.seq := rfl
@[simp] theorem State.setOsc_ain (k : Fin 2) (o : Osc) (s : State) : (s.setOsc k o).ain = s.ain := rfl
@[simp] theorem State.setOsc_sns (k : Fin 2) (o : Osc) (s : State) : (s.setOsc k o).sns = s.sns := rfl
@[simp] theorem State.setOsc_port (k : Fin 2) (o : Osc) (s : State) : (s.setOsc k o).port = s.port := rfl
@[simp] theorem State.setOsc_readData (k : Fin 2) (o : Osc) (s : State) : (s.setOsc k o).readData = s.readData := rfl

/-! setFm -/

@[simp] theorem State.setFm_build (f : Fm) (s : State) : (s.setFm f).build = s.build := rfl
@[simp] theorem State.setFm_status (f : Fm) (s : State) : (s.setFm f).status = s.status := rfl
@[simp] theorem State.setFm_errCmd (f : Fm) (s : State) : (s.setFm f).errCmd = s.errCmd := rfl
@[simp] theorem State.setFm_osc (f : Fm) (s : State) : (s.setFm f).osc = s.osc := rfl
@[simp] theorem State.setFm_fm (f : Fm) (s : State) : (s.setFm f).fm = f := rfl
@[simp] theorem State.setFm_flt (f : Fm) (s : State) : (s.setFm f).flt = s.flt := rfl
@[simp] theorem State.setFm_dly (f : Fm) (s : State) : (s.setFm f).dly = s.dly := rfl
@[simp] theorem State.setFm_dmemL (f : Fm) (s : State) : (s.setFm f).dmemL = s.dmemL := rfl
@[simp] theorem State.setFm_dmemR (f : Fm) (s : State) : (s.setFm f).dmemR = s.dmemR := rfl
@[simp] theorem State.setFm_seq (f : Fm) (s : State) : (s.setFm f).seq = s.seq := rfl
@[simp] theorem State.setFm_ain (f : Fm) (s : State) : (s.setFm f).ain = s.ain := rfl
@[simp] theorem State.setFm_sns (f : Fm) (s : State) : (s.setFm f).sns = s.sns := rfl
@[simp] theorem State.setFm_port (f : Fm) (s : State) : (s.setFm f).port = s.port := rfl
@[simp] theorem State.setFm_readData (f : Fm) (s : State) : (s.setFm f).readData = s.readData := rfl

/-! setFlt -/

@[simp] theorem State.setFlt_build (i : Fin 8) (f : Filter) (s : State) : (s.setFlt i f).build = s.build := rfl
@[simp] theorem State.setFlt_status (i : Fin 8) (f : Filter) (s : State) : (s.setFlt i f).status = s.status := rfl
@[simp] theorem State.setFlt_errCmd (i : Fin 8) (f : Filter) (s : State) : (s.setFlt i f).errCmd = s.errCmd := rfl
@[simp] theorem State.setFlt_osc (i : Fin 8) (f : Filter) (s : State) : (s.setFlt i f).osc = s.osc := rfl
@[simp] theorem State.setFlt_fm (i : Fin 8) (f : Filter) (s : State) : (s.setFlt i f).fm = s.fm := rfl
@[simp] theorem State.setFlt_flt (i : Fin 8) (f : Filter) (s : State) : (s.setFlt i f).flt = s.flt.set i.val f i.isLt := rfl
@[simp] theorem State.setFlt_dly (i : Fin 8) (f : Filter) (s : State) : (s.setFlt i f).dly = s.dly := rfl
@[simp] theorem State.setFlt_dmemL (i : Fin 8) (f : Filter) (s : State) : (s.setFlt i f).dmemL = s.dmemL := rfl
@[simp] theorem State.setFlt_dmemR (i : Fin 8) (f : Filter) (s : State) : (s.setFlt i f).dmemR = s.dmemR := rfl
@[simp] theorem State.setFlt_seq (i : Fin 8) (f : Filter) (s : State) : (s.setFlt i f).seq = s.seq := rfl
@[simp] theorem State.setFlt_ain (i : Fin 8) (f : Filter) (s : State) : (s.setFlt i f).ain = s.ain := rfl
@[simp] theorem State.setFlt_sns (i : Fin 8) (f : Filter) (s : State) : (s.setFlt i f).sns = s.sns := rfl
@[simp] theorem State.setFlt_port (i : Fin 8) (f : Filter) (s : State) : (s.setFlt i f).port = s.port := rfl
@[simp] theorem State.setFlt_readData (i : Fin 8) (f : Filter) (s : State) : (s.setFlt i f).readData = s.readData := rfl

/-! setDly -/

@[simp] theorem State.setDly_build (d : Delay) (s : State) : (s.setDly d).build = s.build := rfl
@[simp] theorem State.setDly_status (d : Delay) (s : State) : (s.setDly d).status = s.status := rfl
@[simp] theorem State.setDly_errCmd (d : Delay) (s : State) : (s.setDly d).errCmd = s.errCmd := rfl
@[simp] theorem State.setDly_osc (d : Delay) (s : State) : (s.setDly d).osc = s.osc := rfl
@[simp] theorem State.setDly_fm (d : Delay) (s : State) : (s.setDly d).fm = s.fm := rfl
@[simp] theorem State.setDly_flt (d : Delay) (s : State) : (s.setDly d).flt = s.flt := rfl
@[simp] theorem State.setDly_dly (d : Delay) (s : State) : (s.setDly d).dly = d := rfl
@[simp] theorem State.setDly_dmemL (d : Delay) (s : State) : (s.setDly d).dmemL = s.dmemL := rfl
@[simp] theorem State.setDly_dmemR (d : Delay) (s : State) : (s.setDly d).dmemR = s.dmemR := rfl
@[simp] theorem State.setDly_seq (d : Delay) (s : State) : (s.setDly d).seq = s.seq := rfl
@[simp] theorem State.setDly_ain (d : Delay) (s : State) : (s.setDly d).ain = s.ain := rfl
@[simp] theorem State.setDly_sns (d : Delay) (s : State) : (s.setDly d).sns = s.sns := rfl
@[simp] theorem State.setDly_port (d : Delay) (s : State) : (s.setDly d).port = s.port := rfl
@[simp] theorem State.setDly_readData (d : Delay) (s : State) : (s.setDly d).readData = s.readData := rfl

/-! setSeq -/

@[simp] theorem State.setSeq_build (q : Seq) (s : State) : (s.setSeq q).build = s.build := rfl
@[simp] theorem State.setSeq_status (q : Seq) (s : State) : (s.setSeq q).status = s.status := rfl
@[simp] theorem State.setSeq_errCmd (q : Seq) (s : State) : (s.setSeq q).errCmd = s.errCmd := rfl
@[simp] theorem State.setSeq_osc (q : Seq) (s : State) : (s.setSeq q).osc = s.osc := rfl
@[simp] theorem State.setSeq_fm (q : Seq) (s : State) : (s.setSeq q).fm = s.fm := rfl
@[simp] theorem State.setSeq_flt (q : Seq) (s : State) : (s.setSeq q).flt = s.flt := rfl
@[simp] theorem State.setSeq_dly (q : Seq) (s : State) : (s.setSeq q).dly = s.dly := rfl
@[simp] theorem State.setSeq_dmemL (q : Seq) (s : State) : (s.setSeq q).dmemL = s.dmemL := rfl
@[simp] theorem State.setSeq_dmemR (q : Seq) (s : State) : (s.setSeq q).dmemR = s.dmemR := rfl
@[simp] theorem State.setSeq_seq (q : Seq) (s : State) : (s.setSeq q).seq = q := rfl
@[simp] theorem State.setSeq_ain (q : Seq) (s : State) : (s.setSeq q).ain = s.ain := rfl
@[simp] theorem State.setSeq_sns (q : Seq) (s : State) : (s.setSeq q).sns = s.sns := rfl
@[simp] theorem State.setSeq_port (q : Seq) (s : State) : (s.setSeq q).port = s.port := rfl
@[simp] theorem State.setSeq_readData (q : Seq) (s : State) : (s.setSeq q).readData = s.readData := rfl

/-! setAin -/

@[simp] theorem State.setAin_build (ch : Fin 16) (v : Word) (s : State) : (s.setAin ch v).build = s.build := rfl
@[simp] theorem State.setAin_status (ch : Fin 16) (v : Word) (s : State) : (s.setAin ch v).status = s.status := rfl
@[simp] theorem State.setAin_errCmd (ch : Fin 16) (v : Word) (s : State) : (s.setAin ch v).errCmd = s.errCmd := rfl
@[simp] theorem State.setAin_osc (ch : Fin 16) (v : Word) (s : State) : (s.setAin ch v).osc = s.osc := rfl
@[simp] theorem State.setAin_fm (ch : Fin 16) (v : Word) (s : State) : (s.setAin ch v).fm = s.fm := rfl
@[simp] theorem State.setAin_flt (ch : Fin 16) (v : Word) (s : State) : (s.setAin ch v).flt = s.flt := rfl
@[simp] theorem State.setAin_dly (ch : Fin 16) (v : Word) (s : State) : (s.setAin ch v).dly = s.dly := rfl
@[simp] theorem State.setAin_dmemL (ch : Fin 16) (v : Word) (s : State) : (s.setAin ch v).dmemL = s.dmemL := rfl
@[simp] theorem State.setAin_dmemR (ch : Fin 16) (v : Word) (s : State) : (s.setAin ch v).dmemR = s.dmemR := rfl
@[simp] theorem State.setAin_seq (ch : Fin 16) (v : Word) (s : State) : (s.setAin ch v).seq = s.seq := rfl
@[simp] theorem State.setAin_ain (ch : Fin 16) (v : Word) (s : State) : (s.setAin ch v).ain = s.ain.set ch.val v ch.isLt := rfl
@[simp] theorem State.setAin_sns (ch : Fin 16) (v : Word) (s : State) : (s.setAin ch v).sns = s.sns := rfl
@[simp] theorem State.setAin_port (ch : Fin 16) (v : Word) (s : State) : (s.setAin ch v).port = s.port := rfl
@[simp] theorem State.setAin_readData (ch : Fin 16) (v : Word) (s : State) : (s.setAin ch v).readData = s.readData := rfl

/-! setSns -/

@[simp] theorem State.setSns_build (sn : Fin 2) (x : Sensor) (s : State) : (s.setSns sn x).build = s.build := rfl
@[simp] theorem State.setSns_status (sn : Fin 2) (x : Sensor) (s : State) : (s.setSns sn x).status = s.status := rfl
@[simp] theorem State.setSns_errCmd (sn : Fin 2) (x : Sensor) (s : State) : (s.setSns sn x).errCmd = s.errCmd := rfl
@[simp] theorem State.setSns_osc (sn : Fin 2) (x : Sensor) (s : State) : (s.setSns sn x).osc = s.osc := rfl
@[simp] theorem State.setSns_fm (sn : Fin 2) (x : Sensor) (s : State) : (s.setSns sn x).fm = s.fm := rfl
@[simp] theorem State.setSns_flt (sn : Fin 2) (x : Sensor) (s : State) : (s.setSns sn x).flt = s.flt := rfl
@[simp] theorem State.setSns_dly (sn : Fin 2) (x : Sensor) (s : State) : (s.setSns sn x).dly = s.dly := rfl
@[simp] theorem State.setSns_dmemL (sn : Fin 2) (x : Sensor) (s : State) : (s.setSns sn x).dmemL = s.dmemL := rfl
@[simp] theorem State.setSns_dmemR (sn : Fin 2) (x : Sensor) (s : State) : (s.setSns sn x).dmemR = s.dmemR := rfl
@[simp] theorem State.setSns_seq (sn : Fin 2) (x : Sensor) (s : State) : (s.setSns sn x).seq = s.seq := rfl
@[simp] theorem State.setSns_ain (sn : Fin 2) (x : Sensor) (s : State) : (s.setSns sn x).ain = s.ain := rfl
@[simp] theorem State.setSns_sns (sn : Fin 2) (x : Sensor) (s : State) : (s.setSns sn x).sns = s.sns.set sn.val x sn.isLt := rfl
@[simp] theorem State.setSns_port (sn : Fin 2) (x : Sensor) (s : State) : (s.setSns sn x).port = s.port := rfl
@[simp] theorem State.setSns_readData (sn : Fin 2) (x : Sensor) (s : State) : (s.setSns sn x).readData = s.readData := rfl

/-! memWrite -/

@[simp] theorem State.memWrite_build (ch : Channel) (i : Nat) (v : Word) (s : State) :
    (s.memWrite ch i v).build = s.build := by cases ch <;> rfl
@[simp] theorem State.memWrite_status (ch : Channel) (i : Nat) (v : Word) (s : State) :
    (s.memWrite ch i v).status = s.status := by cases ch <;> rfl
@[simp] theorem State.memWrite_errCmd (ch : Channel) (i : Nat) (v : Word) (s : State) :
    (s.memWrite ch i v).errCmd = s.errCmd := by cases ch <;> rfl
@[simp] theorem State.memWrite_osc (ch : Channel) (i : Nat) (v : Word) (s : State) :
    (s.memWrite ch i v).osc = s.osc := by cases ch <;> rfl
@[simp] theorem State.memWrite_fm (ch : Channel) (i : Nat) (v : Word) (s : State) :
    (s.memWrite ch i v).fm = s.fm := by cases ch <;> rfl
@[simp] theorem State.memWrite_flt (ch : Channel) (i : Nat) (v : Word) (s : State) :
    (s.memWrite ch i v).flt = s.flt := by cases ch <;> rfl
@[simp] theorem State.memWrite_dly (ch : Channel) (i : Nat) (v : Word) (s : State) :
    (s.memWrite ch i v).dly = s.dly := by cases ch <;> rfl
@[simp] theorem State.memWrite_seq (ch : Channel) (i : Nat) (v : Word) (s : State) :
    (s.memWrite ch i v).seq = s.seq := by cases ch <;> rfl
@[simp] theorem State.memWrite_ain (ch : Channel) (i : Nat) (v : Word) (s : State) :
    (s.memWrite ch i v).ain = s.ain := by cases ch <;> rfl
@[simp] theorem State.memWrite_sns (ch : Channel) (i : Nat) (v : Word) (s : State) :
    (s.memWrite ch i v).sns = s.sns := by cases ch <;> rfl
@[simp] theorem State.memWrite_port (ch : Channel) (i : Nat) (v : Word) (s : State) :
    (s.memWrite ch i v).port = s.port := by cases ch <;> rfl
@[simp] theorem State.memWrite_readData (ch : Channel) (i : Nat) (v : Word) (s : State) :
    (s.memWrite ch i v).readData = s.readData := by cases ch <;> rfl
@[simp] theorem State.memWrite_left_dmemL (i : Nat) (v : Word) (s : State) :
    (s.memWrite .left i v).dmemL = s.dmemL.write i v := rfl
@[simp] theorem State.memWrite_left_dmemR (i : Nat) (v : Word) (s : State) :
    (s.memWrite .left i v).dmemR = s.dmemR := rfl
@[simp] theorem State.memWrite_right_dmemL (i : Nat) (v : Word) (s : State) :
    (s.memWrite .right i v).dmemL = s.dmemL := rfl
@[simp] theorem State.memWrite_right_dmemR (i : Nat) (v : Word) (s : State) :
    (s.memWrite .right i v).dmemR = s.dmemR.write i v := rfl

@[simp] theorem State.dmem_left (s : State) : s.dmem .left = s.dmemL := rfl
@[simp] theorem State.dmem_right (s : State) : s.dmem .right = s.dmemR := rfl

/-! raise and noteDegen -/

@[simp] theorem raise_build (c : Condition) (w : Word) (s : State) : (raise c w s).build = s.build := rfl
@[simp] theorem raise_status (c : Condition) (w : Word) (s : State) : (raise c w s).status = s.status.raise c := rfl
@[simp] theorem raise_errCmd (c : Condition) (w : Word) (s : State) : (raise c w s).errCmd = w := rfl
@[simp] theorem raise_osc (c : Condition) (w : Word) (s : State) : (raise c w s).osc = s.osc := rfl
@[simp] theorem raise_fm (c : Condition) (w : Word) (s : State) : (raise c w s).fm = s.fm := rfl
@[simp] theorem raise_flt (c : Condition) (w : Word) (s : State) : (raise c w s).flt = s.flt := rfl
@[simp] theorem raise_dly (c : Condition) (w : Word) (s : State) : (raise c w s).dly = s.dly := rfl
@[simp] theorem raise_dmemL (c : Condition) (w : Word) (s : State) : (raise c w s).dmemL = s.dmemL := rfl
@[simp] theorem raise_dmemR (c : Condition) (w : Word) (s : State) : (raise c w s).dmemR = s.dmemR := rfl
@[simp] theorem raise_seq (c : Condition) (w : Word) (s : State) : (raise c w s).seq = s.seq := rfl
@[simp] theorem raise_ain (c : Condition) (w : Word) (s : State) : (raise c w s).ain = s.ain := rfl
@[simp] theorem raise_sns (c : Condition) (w : Word) (s : State) : (raise c w s).sns = s.sns := rfl
@[simp] theorem raise_port (c : Condition) (w : Word) (s : State) : (raise c w s).port = s.port := rfl
@[simp] theorem raise_readData (c : Condition) (w : Word) (s : State) : (raise c w s).readData = s.readData := rfl

@[simp] theorem noteDegen_build (met : Bool) (s : State) : (noteDegen met s).build = s.build := rfl
@[simp] theorem noteDegen_status (met : Bool) (s : State) : (noteDegen met s).status = { s.status with degen := s.status.degen || met } := rfl
@[simp] theorem noteDegen_errCmd (met : Bool) (s : State) : (noteDegen met s).errCmd = s.errCmd := rfl
@[simp] theorem noteDegen_osc (met : Bool) (s : State) : (noteDegen met s).osc = s.osc := rfl
@[simp] theorem noteDegen_fm (met : Bool) (s : State) : (noteDegen met s).fm = s.fm := rfl
@[simp] theorem noteDegen_flt (met : Bool) (s : State) : (noteDegen met s).flt = s.flt := rfl
@[simp] theorem noteDegen_dly (met : Bool) (s : State) : (noteDegen met s).dly = s.dly := rfl
@[simp] theorem noteDegen_dmemL (met : Bool) (s : State) : (noteDegen met s).dmemL = s.dmemL := rfl
@[simp] theorem noteDegen_dmemR (met : Bool) (s : State) : (noteDegen met s).dmemR = s.dmemR := rfl
@[simp] theorem noteDegen_seq (met : Bool) (s : State) : (noteDegen met s).seq = s.seq := rfl
@[simp] theorem noteDegen_ain (met : Bool) (s : State) : (noteDegen met s).ain = s.ain := rfl
@[simp] theorem noteDegen_sns (met : Bool) (s : State) : (noteDegen met s).sns = s.sns := rfl
@[simp] theorem noteDegen_port (met : Bool) (s : State) : (noteDegen met s).port = s.port := rfl
@[simp] theorem noteDegen_readData (met : Bool) (s : State) : (noteDegen met s).readData = s.readData := rfl

/-! The unit written, read back, and the other units. -/

theorem State.setOsc_self (k : Fin 2) (o : Osc) (s : State) : (s.setOsc k o).osc[k.val] = o := by simp

theorem State.setOsc_other (k j : Fin 2) (h : k ≠ j) (o : Osc) (s : State) :
    (s.setOsc k o).osc[j.val] = s.osc[j.val] := by
  have : k.val ≠ j.val := fun e => h (Fin.ext e)
  simp [Vector.getElem_set_ne, this]

theorem State.setFlt_self (i : Fin 8) (f : Filter) (s : State) : (s.setFlt i f).flt[i.val] = f := by simp

theorem State.setFlt_other (i j : Fin 8) (h : i ≠ j) (f : Filter) (s : State) :
    (s.setFlt i f).flt[j.val] = s.flt[j.val] := by
  have : i.val ≠ j.val := fun e => h (Fin.ext e)
  simp [Vector.getElem_set_ne, this]

theorem State.setSns_self (sn : Fin 2) (x : Sensor) (s : State) : (s.setSns sn x).sns[sn.val] = x := by simp

theorem State.setSns_other (sn j : Fin 2) (h : sn ≠ j) (x : Sensor) (s : State) :
    (s.setSns sn x).sns[j.val] = s.sns[j.val] := by
  have : sn.val ≠ j.val := fun e => h (Fin.ext e)
  simp [Vector.getElem_set_ne, this]

end Sys2Proof.Machine
end

