-- ==== Sys2Proof/Laws/Memory.lean ====
section
/-!
SUPPORT. The laws of the delay memory: reading back what was written, leaving every other word alone, and
keeping the canonical form (20_memory.md R101, R103).
-/

namespace Sys2Proof.Machine

@[simp] theorem DelayMem.read_nil (i : Nat) : DelayMem.read [] i = 0 := rfl

/-- Below its first index a canonical memory reads +0.0. -/
theorem DelayMem.read_below (m : DelayMem) (lo i : Nat) (h : DelayMem.wfFrom lo m = true) (hi : i < lo) :
    m.read i = 0 := by
  induction m generalizing lo with
  | nil => rfl
  | cons cell rest ih =>
    obtain ⟨a, u⟩ := cell
    simp only [DelayMem.wfFrom, Bool.and_eq_true, decide_eq_true_eq] at h
    have hne : a ≠ i := by omega
    simp only [DelayMem.read, hne, if_false]
    exact ih (a + 1) h.2 (by omega)

/-- A word written is read back. -/
theorem DelayMem.read_write_same (m : DelayMem) (lo i : Nat) (v : Word) (h : DelayMem.wfFrom lo m = true) :
    (m.write i v).read i = v := by
  induction m generalizing lo with
  | nil =>
    by_cases hv : v = 0#32 <;> simp [DelayMem.write, DelayMem.read, hv]
  | cons cell rest ih =>
    obtain ⟨a, u⟩ := cell
    simp only [DelayMem.wfFrom, Bool.and_eq_true, decide_eq_true_eq] at h
    by_cases h1 : i < a
    · have hne : a ≠ i := by omega
      by_cases hv : v = 0#32
      · subst hv
        simp only [DelayMem.write, h1, if_true, DelayMem.read, hne, if_false]
        exact DelayMem.read_below rest (a + 1) i h.2 (by omega)
      · simp [DelayMem.write, h1, hv, DelayMem.read]
    · by_cases h2 : i = a
      · subst h2
        by_cases hv : v = 0#32
        · subst hv
          simp only [DelayMem.write, h1, if_true, if_false]
          exact DelayMem.read_below rest (i + 1) i h.2 (by omega)
        · simp [DelayMem.write, hv, DelayMem.read]
      · have hne : a ≠ i := fun e => h2 e.symm
        simp only [DelayMem.write, h1, h2, if_false, DelayMem.read, hne]
        exact ih (a + 1) h.2

/-- A write leaves every other word as it was. -/
theorem DelayMem.read_write_other (m : DelayMem) (i j : Nat) (v : Word) (hij : j ≠ i) :
    (m.write i v).read j = m.read j := by
  induction m with
  | nil => by_cases hv : v = 0#32 <;> simp [DelayMem.write, DelayMem.read, hv, Ne.symm hij]
  | cons cell rest ih =>
    obtain ⟨a, u⟩ := cell
    unfold DelayMem.write
    split
    · split
      · rfl
      · simp [DelayMem.read, Ne.symm hij]
    · split
      · rename_i h2
        subst h2
        split <;> simp [DelayMem.read, Ne.symm hij]
      · simp only [DelayMem.read, ih]

/-- A write keeps the canonical form above any bound not above its index. -/
theorem DelayMem.wfFrom_write (m : DelayMem) (lo i : Nat) (v : Word) (hi : lo ≤ i)
    (h : DelayMem.wfFrom lo m = true) : DelayMem.wfFrom lo (m.write i v) = true := by
  induction m generalizing lo with
  | nil => by_cases hv : v = 0#32 <;> simp [DelayMem.write, DelayMem.wfFrom, hv, hi]
  | cons cell rest ih =>
    obtain ⟨a, u⟩ := cell
    simp only [DelayMem.wfFrom, Bool.and_eq_true, decide_eq_true_eq] at h
    obtain ⟨⟨ha, hu⟩, hr⟩ := h
    have weaken : ∀ (l : DelayMem) (p q : Nat), p ≤ q → DelayMem.wfFrom q l = true →
        DelayMem.wfFrom p l = true := by
      intro l p q hpq hl
      cases l with
      | nil => rfl
      | cons c t =>
        obtain ⟨x, y⟩ := c
        simp only [DelayMem.wfFrom, Bool.and_eq_true, decide_eq_true_eq] at hl ⊢
        exact ⟨⟨by omega, hl.1.2⟩, hl.2⟩
    unfold DelayMem.write
    split
    · rename_i h1
      split
      · simp only [DelayMem.wfFrom, Bool.and_eq_true, decide_eq_true_eq]
        exact ⟨⟨ha, hu⟩, hr⟩
      · rename_i hv
        simp only [DelayMem.wfFrom, Bool.and_eq_true, decide_eq_true_eq]
        exact ⟨⟨hi, by simpa using hv⟩, ⟨by omega, hu⟩, hr⟩
    · split
      · rename_i h2
        subst h2
        split
        · exact weaken rest lo (i + 1) (by omega) hr
        · rename_i hv
          simp only [DelayMem.wfFrom, Bool.and_eq_true, decide_eq_true_eq]
          exact ⟨⟨hi, by simpa using hv⟩, hr⟩
      · simp only [DelayMem.wfFrom, Bool.and_eq_true, decide_eq_true_eq]
        exact ⟨⟨ha, hu⟩, ih (a + 1) (by omega) hr⟩

/-- A write inside the memory keeps every index inside the memory. -/
theorem DelayMem.all_write (p : Nat × Word → Bool) (m : DelayMem) (i : Nat) (v : Word)
    (hp : p (i, v) = true) (h : m.all p = true) : (m.write i v).all p = true := by
  induction m with
  | nil => by_cases hv : v = 0#32 <;> simp [DelayMem.write, hv, hp]
  | cons cell rest ih =>
    obtain ⟨a, u⟩ := cell
    simp only [List.all_cons, Bool.and_eq_true] at h
    unfold DelayMem.write
    split
    · split <;> simp only [List.all_cons, Bool.and_eq_true]
      · exact h
      · exact ⟨hp, h⟩
    · split
      · split
        · exact h.2
        · simp only [List.all_cons, Bool.and_eq_true]; exact ⟨hp, h.2⟩
      · simp only [List.all_cons, Bool.and_eq_true]
        exact ⟨h.1, ih h.2⟩

/-- Every write inside the memory keeps the canonical form (R101). -/
theorem DelayMem.wf_write (m : DelayMem) (i : Nat) (v : Word) (hi : i < Config.dlyDepth) (h : m.wf = true) :
    (m.write i v).wf = true := by
  simp only [DelayMem.wf, Bool.and_eq_true] at h ⊢
  exact ⟨m.wfFrom_write 0 i v (Nat.zero_le i) h.1, m.all_write _ i v (by simpa using hi) h.2⟩

/-- The memory of the reset state is in canonical form. -/
theorem DelayMem.wf_reset (b : Build) : (State.resetOf b).dmemL.wf = true ∧ (State.resetOf b).dmemR.wf = true :=
  ⟨rfl, rfl⟩

/-- MemRead after a MemWrite of the same word (R103). -/
theorem State.memRead_memWrite_same (s : State) (ch : Channel) (i : Nat) (v : Word)
    (h : (s.dmem ch).wf = true) : (s.memWrite ch i v).memRead ch i = v := by
  simp only [DelayMem.wf, Bool.and_eq_true] at h
  cases ch <;> exact DelayMem.read_write_same _ 0 i v h.1

/-- MemRead of another word of the same channel after a MemWrite (R103). -/
theorem State.memRead_memWrite_other (s : State) (ch : Channel) (i j : Nat) (v : Word) (h : j ≠ i) :
    (s.memWrite ch i v).memRead ch j = s.memRead ch j := by
  cases ch <;> exact DelayMem.read_write_other _ i j v h

/-- MemRead of the other channel after a MemWrite (R103). -/
theorem State.memRead_memWrite_channel (s : State) (ch ch' : Channel) (i j : Nat) (v : Word) (h : ch' ≠ ch) :
    (s.memWrite ch i v).memRead ch' j = s.memRead ch' j := by
  cases ch <;> cases ch' <;> first | rfl | exact absurd rfl h

/-- A state that differs in nothing but fields outside the delay memory reads the same words. -/
theorem State.memRead_congr (s t : State) (ch : Channel) (i : Nat) (h : s.dmem ch = t.dmem ch) :
    s.memRead ch i = t.memRead ch i := by simp [State.memRead, h]

end Sys2Proof.Machine
end

