-- ==== Sys2Proof/Laws/Ops.lean ====
section
/-!
SUPPORT. What each shared operation of the commands does, once: the oscillator and filter steps, the column scans,
the calibration tick, the row read, the resolver, the renders, and how a step takes an event off the port.
-/

namespace Sys2Proof.Machine

/-! ## Oscillator and filter steps -/

@[simp] theorem Osc.next_freq (o : Osc) : o.next.freq = o.freq := rfl
@[simp] theorem Osc.next_amp (o : Osc) : o.next.amp = o.amp := rfl
@[simp] theorem Osc.next_fs (o : Osc) : o.next.fs = o.fs := rfl
@[simp] theorem Osc.next_out (o : Osc) : o.next.out = o.sample := rfl
@[simp] theorem Osc.next_phase (o : Osc) : o.next.phase = wrapPhase (fadd o.phase o.increment) := rfl

/-- NextSample changes one oscillator and nothing else. -/
theorem nextSample_eq (k : Fin 2) (s : State) : nextSample k s = s.setOsc k (s.osc[k.val]).next := rfl

/-- FM_STEP on configured oscillators changes the oscillators and FM_OUT, and nothing else. -/
theorem fmAdvance_frame (s : State) :
    ∃ osc out, fmAdvance s = { s with osc := osc, fm := { s.fm with fmOut := out } } := ⟨_, _, rfl⟩

@[simp] theorem Filter.lpShift_fs (f : Filter) (v : Word) : (f.lpShift v).fs = f.fs := rfl
@[simp] theorem Filter.lpShift_fc (f : Filter) (v : Word) : (f.lpShift v).fc = f.fc := rfl
@[simp] theorem Filter.lpShift_input (f : Filter) (v : Word) : (f.lpShift v).input = f.input := rfl
@[simp] theorem Filter.lpShift_x1 (f : Filter) (v : Word) : (f.lpShift v).x1 = v := rfl
@[simp] theorem Filter.lpShift_y1 (f : Filter) (v : Word) : (f.lpShift v).y1 = f.lpOut v := rfl
@[simp] theorem Filter.design_fs (k : Word) (f : Filter) : (f.design k).fs = f.fs := rfl
@[simp] theorem Filter.design_fc (k : Word) (f : Filter) : (f.design k).fc = f.fc := rfl
@[simp] theorem Filter.design_input (k : Word) (f : Filter) : (f.design k).input = f.input := rfl
@[simp] theorem Filter.design_output (k : Word) (f : Filter) : (f.design k).output = f.output := rfl

@[simp] theorem lpApply_fst (i : Fin 8) (v : Word) (s : State) : (lpApply i v s).1 = (s.flt[i.val]).lpOut v := rfl
@[simp] theorem lpApply_snd (i : Fin 8) (v : Word) (s : State) :
    (lpApply i v s).2 = s.setFlt i ((s.flt[i.val]).lpShift v) := rfl

@[simp] theorem sensorFilter_val (sn : Fin 2) (axis : Fin 3) :
    (sensorFilter sn axis).val = 3 * sn.val + axis.val := rfl

/-! ## Columns and the effective row -/

/-- The columns are those below DIM. -/
theorem mem_columns (b : Build) (c : Fin 16) : c ∈ columns b ↔ c.val < b.dim := by
  have all : ∀ c : Fin 16, c ∈ ([0, 1, 2, 3, 4, 5, 6, 7, 8, 9, 10, 11, 12, 13, 14, 15] : List (Fin 16)) := by decide
  simp only [columns, List.mem_filter, decide_eq_true_eq]
  exact ⟨And.right, fun h => ⟨all c, h⟩⟩

/-- The columns rise strictly. -/
theorem columns_sorted (b : Build) : (columns b).Pairwise (· < ·) :=
  List.Pairwise.filter _ (by decide)

theorem columns_nodup (b : Build) : (columns b).Nodup :=
  (columns_sorted b).imp fun h => Fin.ne_of_lt h

/-- The effective row is the remainder of R321, below DIM. -/
theorem effectiveRow_val (b : Build) (row : Nat) :
    ((effectiveRow b row).val : Int) = ((row : Int) - b.lag) % b.dim := by
  have h := b.dim_ge
  exact Int.toNat_of_nonneg (Int.emod_nonneg _ (by omega))

theorem effectiveRow_lt (b : Build) (row : Nat) : (effectiveRow b row).val < b.dim := by
  have h := b.dim_ge
  have h1 := effectiveRow_val b row
  have h2 := Int.emod_lt_of_pos ((row : Int) - b.lag) (b := (b.dim : Int)) (by omega)
  omega

/-! ## Calibration -/

/-- A scan over columns without repeats decides each column once. -/
theorem raiseFold_get (f : Fin 16 → Word) (l : List (Fin 16)) (hl : l.Nodup) (a : Vector Word 16) (c : Fin 16) :
    (l.foldl (fun a c => if fgt (f c) a[c.val] then a.set c.val (f c) c.isLt else a) a)[c.val] =
      if c ∈ l ∧ fgt (f c) a[c.val] = true then f c else a[c.val] := by
  induction l generalizing a with
  | nil => simp
  | cons d l ih =>
    have hd := List.nodup_cons.1 hl
    rw [List.foldl_cons, ih hd.2]
    by_cases hcd : c = d
    · subst hcd
      simp only [hd.1, false_and, if_false, List.mem_cons, true_or, true_and]
      split <;> simp
    · have hne : d.val ≠ c.val := fun h => hcd (Fin.ext h.symm)
      have : (if fgt (f d) a[d.val] then a.set d.val (f d) d.isLt else a)[c.val] = a[c.val] := by
        split
        · exact Vector.getElem_set_ne d.isLt c.isLt hne
        · rfl
      simp only [this, List.mem_cons, hcd, false_or]

/-- Each extreme below DIM is raised to its reading when that exceeds it (R320). -/
theorem Sensor.raiseAll_get (b : Build) (ain : Vector Word 16) (x : Sensor) (a : Vector Word 16) (c : Fin 16) :
    (x.raiseAll b ain a)[c.val] =
      if c.val < b.dim ∧ fgt (x.reading ain c) a[c.val] = true then x.reading ain c else a[c.val] := by
  simp only [Sensor.raiseAll, raiseFold_get _ _ (columns_nodup b), mem_columns]

/-- The count of a tick that ends its phase. -/
theorem Sensor.countTick_full (dur : Word) (here after : CalState) (x : Sensor)
    (h : dur.toNat ≤ x.calCnt.toNat + 1) :
    x.countTick dur here after = { x with calState := after, calCnt := 0 } := by simp [Sensor.countTick, h]

/-- The count of a tick that does not end its phase: it cannot wrap. -/
theorem Sensor.countTick_partial (dur : Word) (here after : CalState) (x : Sensor)
    (h : x.calCnt.toNat + 1 < dur.toNat) :
    x.countTick dur here after = { x with calState := here, calCnt := x.calCnt + 1 } ∧
      (x.calCnt + 1).toNat = x.calCnt.toNat + 1 := by
  have h2 := dur.isLt
  refine ⟨by simp [Sensor.countTick, Nat.not_le.2 h], ?_⟩
  rw [BitVec.toNat_add, show (1 : Word).toNat = 1 from rfl, Nat.mod_eq_of_lt (by omega)]

/-- A tick changes the extremes, the calibration state and the count, and nothing else (R320). -/
theorem Sensor.tick_frame (b : Build) (dur : Word) (ain : Vector Word 16) (x : Sensor) :
    ∃ cs cnt mn mx, x.tick b dur ain = { x with calState := cs, calCnt := cnt, mins := mn, maxs := mx } := by
  unfold Sensor.tick
  split <;> first | exact ⟨_, _, _, _, rfl⟩ | (unfold Sensor.countTick; split <;> exact ⟨_, _, _, _, rfl⟩)

/-- A Done sensor is left alone (R320). -/
theorem Sensor.tick_done (b : Build) (dur : Word) (ain : Vector Word 16) (x : Sensor) (h : x.calState = .done) :
    x.tick b dur ain = x := by simp [Sensor.tick, h]

/-! ## The row read -/

/-- One column changes the grid and the peak, and nothing else (R321). -/
theorem Sensor.sampleColumn_frame (ain : Vector Word 16) (er : Fin 16) (x : Sensor) (c : Fin 16) :
    ∃ g v pc pr, x.sampleColumn ain er c =
      { x with grid := g, peakVal := v, peakCol := pc, peakRow := pr } := by
  unfold Sensor.sampleColumn
  dsimp only
  split <;> exact ⟨_, _, _, _, rfl⟩

/-- A row read changes the grid and the peak, and nothing else (R321). -/
theorem Sensor.sample_frame (b : Build) (ain : Vector Word 16) (row : Nat) (x : Sensor) :
    ∃ g v pc pr, x.sample b ain row = { x with grid := g, peakVal := v, peakCol := pc, peakRow := pr } := by
  unfold Sensor.sample
  generalize columns b = l
  induction l generalizing x with
  | nil => exact ⟨_, _, _, _, rfl⟩
  | cons c l ih =>
    obtain ⟨g, v, pc, pr, h⟩ := Sensor.sampleColumn_frame ain (effectiveRow b row) x c
    obtain ⟨g', v', pc', pr', h'⟩ := ih (x.sampleColumn ain (effectiveRow b row) c)
    exact ⟨g', v', pc', pr', by rw [List.foldl_cons, h', h]⟩

@[simp] theorem Sensor.sample_calState (b : Build) (ain : Vector Word 16) (row : Nat) (x : Sensor) :
    (x.sample b ain row).calState = x.calState := by
  obtain ⟨_, _, _, _, h⟩ := Sensor.sample_frame b ain row x; rw [h]

@[simp] theorem Sensor.sample_calCnt (b : Build) (ain : Vector Word 16) (row : Nat) (x : Sensor) :
    (x.sample b ain row).calCnt = x.calCnt := by
  obtain ⟨_, _, _, _, h⟩ := Sensor.sample_frame b ain row x; rw [h]

@[simp] theorem Sensor.sample_colch (b : Build) (ain : Vector Word 16) (row : Nat) (x : Sensor) :
    (x.sample b ain row).colch = x.colch := by
  obtain ⟨_, _, _, _, h⟩ := Sensor.sample_frame b ain row x; rw [h]

@[simp] theorem Sensor.sample_mins (b : Build) (ain : Vector Word 16) (row : Nat) (x : Sensor) :
    (x.sample b ain row).mins = x.mins := by
  obtain ⟨_, _, _, _, h⟩ := Sensor.sample_frame b ain row x; rw [h]

@[simp] theorem Sensor.sample_maxs (b : Build) (ain : Vector Word 16) (row : Nat) (x : Sensor) :
    (x.sample b ain row).maxs = x.maxs := by
  obtain ⟨_, _, _, _, h⟩ := Sensor.sample_frame b ain row x; rw [h]

/-- What holds of the sensor before a scan, and is kept by every column, holds after it. -/
theorem Sensor.sample_induct {P : Sensor → Prop} (b : Build) (ain : Vector Word 16) (row : Nat) (x : Sensor)
    (h0 : P x)
    (hstep : ∀ y c, c.val < b.dim → P y → P (y.sampleColumn ain (effectiveRow b row) c)) :
    P (x.sample b ain row) := by
  have key : ∀ (l : List (Fin 16)) (y : Sensor), (∀ c ∈ l, c.val < b.dim) → P y →
      P (l.foldl (Sensor.sampleColumn ain (effectiveRow b row)) y) := by
    intro l
    induction l with
    | nil => exact fun y _ hy => hy
    | cons c l ih =>
      exact fun y hl hy => ih _ (fun d hd => hl d (List.mem_cons_of_mem c hd))
        (hstep y c (hl c (List.mem_cons_self ..)) hy)
  exact key _ x (fun c hc => (mem_columns b c).1 hc) h0

/-- The grid after one column. -/
theorem Sensor.sampleColumn_grid (ain : Vector Word 16) (er : Fin 16) (x : Sensor) (c a r : Fin 16) :
    (((x.sampleColumn ain er c).grid)[a.val])[r.val] =
      if a = c ∧ r = er then x.normalize c (x.reading ain c) else (x.grid[a.val])[r.val] := by
  have hg : (x.sampleColumn ain er c).grid = (x.setCell c er (x.normalize c (x.reading ain c))).grid := by
    unfold Sensor.sampleColumn; dsimp only; split <;> rfl
  rw [hg]
  simp only [Sensor.setCell, Vector.getElem_set, Fin.ext_iff]
  by_cases hc : c.val = a.val
  · by_cases hr : er.val = r.val
    · simp [hc, hr]
    · have : ¬ r.val = er.val := fun h => hr h.symm
      have hca : c = a := Fin.ext hc
      subst hca
      simp [hr, this]
  · have : ¬ a.val = c.val := fun h => hc h.symm
    simp [hc, this]

/-! ## The resolver -/

/-- The resolver changes DEGEN, the sensor's three filters by one filter step each, the position and the peak, and
nothing else (R322). -/
theorem resolve_frame (sn : Fin 2) (s : State) :
    ∃ (degen : Bool) (flt : Vector Filter 8) (x y z : Word), resolve sn s =
      { s with
        status := { s.status with degen := s.status.degen || degen }
        flt := flt
        sns := s.sns.set sn.val
          { s.sns[sn.val] with posX := x, posY := y, posZ := z, peakVal := ZERO, peakCol := 0, peakRow := 0 }
          sn.isLt } ∧
      ∀ j : Fin 8, flt[j.val] = s.flt[j.val] ∨ j.val / 3 = sn.val ∧ ∃ v, flt[j.val] = (s.flt[j.val]).lpShift v := by
  refine ⟨_, _, _, _, _, rfl, fun j => ?_⟩
  simp only [lpApply_snd, State.setFlt_flt, sensorFilter_val, Vector.getElem_set]
  by_cases h0 : j.val = 3 * sn.val
  · exact .inr ⟨by omega, _, by simp [h0]; rfl⟩
  by_cases h1 : j.val = 3 * sn.val + 1
  · exact .inr ⟨by omega, _, by simp [h1]; rfl⟩
  by_cases h2 : j.val = 3 * sn.val + 2
  · exact .inr ⟨by omega, _, by simp [h2]; rfl⟩
  · left
    have e0 : ¬ 3 * sn.val = j.val := fun h => h0 h.symm
    have e1 : ¬ 3 * sn.val + 1 = j.val := fun h => h1 h.symm
    have e2 : ¬ 3 * sn.val + 2 = j.val := fun h => h2 h.symm
    simp [e0, e1, e2]

/-- What a unit of a sensor's own registers keeps through sampling and resolving: its calibration (R320). -/
def Sensor.SameCalibration (x y : Sensor) : Prop :=
  y.calState = x.calState ∧ y.calCnt = x.calCnt ∧ y.colch = x.colch ∧ y.mins = x.mins ∧ y.maxs = x.maxs

theorem Sensor.SameCalibration.trans {x y w : Sensor} (h : x.SameCalibration y) (h' : y.SameCalibration w) :
    x.SameCalibration w :=
  ⟨h'.1.trans h.1, h'.2.1.trans h.2.1, h'.2.2.1.trans h.2.2.1, h'.2.2.2.1.trans h.2.2.2.1,
    h'.2.2.2.2.trans h.2.2.2.2⟩

theorem sampleRow_calibration (sn : Fin 2) (row : Nat) (s : State) (j : Fin 2) :
    (s.sns[j.val]).SameCalibration ((sampleRow sn row s).sns[j.val]) := by
  by_cases h : sn = j
  · subst h
    simp [sampleRow, Sensor.SameCalibration]
  · rw [sampleRow, State.setSns_other sn j h]
    exact ⟨rfl, rfl, rfl, rfl, rfl⟩

theorem resolve_calibration (sn : Fin 2) (s : State) (j : Fin 2) :
    (s.sns[j.val]).SameCalibration ((resolve sn s).sns[j.val]) := by
  obtain ⟨_, _, _, _, _, e, -⟩ := resolve_frame sn s
  rw [e]
  by_cases h : sn = j
  · subst h
    simp [Sensor.SameCalibration]
  · have : sn.val ≠ j.val := fun e => h (Fin.ext e)
    simp [Sensor.SameCalibration, Vector.getElem_set_ne _ _ this]

/-- A sampling frame keeps the calibration of both sensors (R311). -/
theorem samplingFrame_calibration (s : State) (j : Fin 2) :
    (s.sns[j.val]).SameCalibration ((samplingFrame s).sns[j.val]) := by
  have h := (sampleRow_calibration 0 s.seq.row.val s j).trans (sampleRow_calibration 1 s.seq.row.val _ j)
  unfold samplingFrame
  dsimp only
  split
  · exact h.trans ((resolve_calibration 0 _ j).trans (resolve_calibration 1 _ j))
  · exact h

/-- A sampling frame changes DEGEN, the six sensor filters by filter steps, the sensors, ROW and CYCLES, and nothing
else (R310). -/
theorem samplingFrame_frame (s : State) :
    ∃ (degen : Bool) (flt : Vector Filter 8) (sns : Vector Sensor 2) (row : Fin 16) (cycles : Word),
      samplingFrame s =
        { s with
          status := { s.status with degen := s.status.degen || degen }
          flt := flt
          sns := sns
          seq := { s.seq with row := row, cycles := cycles } } ∧
      ∀ j : Fin 8, flt[j.val] = s.flt[j.val] ∨ j.val < 6 ∧ ∃ v, flt[j.val] = (s.flt[j.val]).lpShift v := by
  unfold samplingFrame
  dsimp only
  split
  · obtain ⟨d0, f0, x0, y0, z0, e0, h0⟩ :=
      resolve_frame 0 (sampleRow 1 s.seq.row.val (sampleRow 0 s.seq.row.val s))
    obtain ⟨d1, f1, x1, y1, z1, e1, h1⟩ :=
      resolve_frame 1 (resolve 0 (sampleRow 1 s.seq.row.val (sampleRow 0 s.seq.row.val s)))
    have hf : (resolve 0 (sampleRow 1 s.seq.row.val (sampleRow 0 s.seq.row.val s))).flt = f0 := by rw [e0]
    refine ⟨d0 || d1, f1, (resolve 1 (resolve 0 (sampleRow 1 s.seq.row.val (sampleRow 0 s.seq.row.val s)))).sns, 0,
      s.seq.cycles + 1, ?_, fun j => ?_⟩
    · rw [e1, e0]
      simp only [sampleRow, State.setSns, State.setSeq, Bool.or_assoc]
    have a := h0 j
    have b := h1 j
    rw [hf] at b
    simp only [sampleRow, State.setSns, Fin.val_zero, Fin.val_one] at a b
    rcases a with a | ⟨a, v, hv⟩
    · rcases b with b | ⟨b, w, hw⟩
      · exact .inl (b.trans a)
      · exact .inr ⟨by omega, w, by rw [hw, a]⟩
    · rcases b with b | ⟨b, w, hw⟩
      · exact .inr ⟨by omega, v, b.trans hv⟩
      · omega
  · exact ⟨false, s.flt, (sampleRow 1 s.seq.row.val (sampleRow 0 s.seq.row.val s)).sns, s.seq.row + 1, s.seq.cycles,
      by simp [sampleRow, State.setSns, State.setSeq], fun j => .inl rfl⟩

/-! ## The renders -/

/-- No render faults while the capacity is not 0 and the pointers it uses are inside the memory. -/
theorem Delay.renderFault_none (d : Delay) (ps : List Word) (hc : d.cap ≠ 0)
    (hp : ∀ p ∈ ps, p.toNat < Config.dlyDepth) : d.renderFault ps = none := by
  unfold Delay.renderFault
  rw [if_neg hc, Option.map_eq_none_iff, List.find?_eq_none]
  intro p h
  simpa using hp p h

@[simp] theorem checkTurn_true (w : Word) (s : State) : checkTurn true w s = s := rfl
@[simp] theorem checkTurn_false (w : Word) (s : State) : checkTurn false w s = raise .errOrder w s := rfl

/-- A pointer advanced below a capacity that is not 0. -/
theorem Delay.advance_toNat (d : Delay) (p : Word) (h : 0 < d.cap.toNat) :
    (d.advance p).toNat = (p.toNat + 1) % d.cap.toNat ∧ (d.advance p).toNat < d.cap.toNat := by
  have h1 := d.cap.isLt
  have h2 := Nat.mod_lt (p.toNat + 1) h
  have e : (d.advance p).toNat = (p.toNat + 1) % d.cap.toNat := by
    rw [Delay.advance, BitVec.toNat_ofNat, Nat.mod_eq_of_lt (by omega)]
  exact ⟨e, e ▸ h2⟩

/-! ## Serving the port -/

theorem step_idle (s : State) (h : s.port = []) : step s = .next s := by simp [step, servePort, h]

theorem step_event (s : State) (e : HostEvent) (rest : List HostEvent) (h : s.port = e :: rest) :
    step s = hostEvent e { s with port := rest } := by simp [step, servePort, h]

theorem regOf_cmdIndex : regOf cmdIndex = some .cmd := by decide

/-- A write of CMD executes the command (R35). -/
theorem hostWrite_cmd (v : Word) (s : State) : hostWrite cmdIndex v s = executeCommand v s := by
  simp only [hostWrite, regOf_cmdIndex]

/-- A write of any other register is complete at once (R37). -/
theorem hostWrite_reg (idx : BitVec 11) (r : Reg) (v : Word) (s : State) (h : regOf idx = some r) (hr : r ≠ .cmd) :
    hostWrite idx v s = .next (writeReg r v s) := by
  unfold hostWrite
  rw [h]
  cases r <;> first | rfl | exact absurd rfl hr

/-- A write of an unmapped offset is ignored (R104). -/
theorem hostWrite_unmapped (idx : BitVec 11) (v : Word) (s : State) (h : regOf idx = none) :
    hostWrite idx v s = .next s := by simp only [hostWrite, h]

/-- A legal word executes its command (R350). -/
theorem executeCommand_ok (w : Word) (i : Instr) (s : State) (h : decode s.build.dim w = .ok i) :
    executeCommand w s = exec i s := by simp only [executeCommand, h]

/-- An illegal word raises ErrIllegal and changes nothing else (R403). -/
theorem executeCommand_illegal (w : Word) (e : Illegal) (s : State) (h : decode s.build.dim w = .error e) :
    executeCommand w s = .next (raise .errIllegal w s) := by simp only [executeCommand, h]

/-- Everything a step can do: nothing, a read, a reset, an ignored write, a register write, or a command. -/
theorem step_cases (s : State) :
    (s.port = [] ∧ step s = .next s) ∨
    ∃ rest, (∃ idx, s.port = .read idx :: rest ∧
        step s = .next { s with port := rest, readData := readWord idx { s with port := rest } }) ∨
      (s.port = .reset :: rest ∧ step s = .next (resetInput { s with port := rest })) ∨
      (∃ idx v, s.port = .write idx v :: rest ∧ regOf idx = none ∧ step s = .next { s with port := rest }) ∨
      (∃ idx v r, s.port = .write idx v :: rest ∧ regOf idx = some r ∧ r ≠ .cmd ∧
        step s = .next (writeReg r v { s with port := rest })) ∨
      (∃ idx v, s.port = .write idx v :: rest ∧ regOf idx = some .cmd ∧
        step s = executeCommand v { s with port := rest }) := by
  cases h : s.port with
  | nil => exact .inl ⟨rfl, step_idle s h⟩
  | cons e rest =>
    refine .inr ⟨rest, ?_⟩
    have hs := step_event s e rest h
    cases e with
    | read idx => exact .inl ⟨idx, rfl, hs⟩
    | reset => exact .inr (.inl ⟨rfl, hs⟩)
    | write idx v =>
      cases hr : regOf idx with
      | none => exact .inr (.inr (.inl ⟨idx, v, rfl, hr, hs.trans (hostWrite_unmapped idx v _ hr)⟩))
      | some r =>
        by_cases hc : r = .cmd
        · refine .inr (.inr (.inr (.inr ⟨idx, v, rfl, by rw [hr, hc], ?_⟩)))
          rw [hs]
          simp only [hostEvent, hostWrite, hr, hc]
        · exact .inr (.inr (.inr (.inl ⟨idx, v, r, rfl, hr, hc, hs.trans (hostWrite_reg idx r v _ hr hc)⟩)))

end Sys2Proof.Machine
end

