-- ==== Sys2Proof/Laws/PerInstr.lean ====
section
/-!
SUPPORT. The families of statements that are made per instruction: one lemma for each constructor of Instr.
-/

namespace Sys2Proof.Laws.EncodeReserved

/-- The RSV field of the word of a command is 0 (30_encoding.md R130). -/
def Statement (i : Instr) : Prop := rsvOf (encode i) = 0

/-- RSV is 0 whatever the other fields are. -/
theorem cmdWord_rsv (opc arg inst : BitVec 8) : rsvOf (cmdWord opc arg inst) = 0 := by
  apply BitVec.eq_of_getLsbD_eq
  intro j hj
  simp only [rsvOf, cmdWord, BitVec.getLsbD_extractLsb', BitVec.getLsbD_append]
  simp [hj, show ¬ 16 + j < 8 by omega, show ¬ 16 + j - 8 < 8 by omega, show 16 + j - 8 - 8 < 8 by omega]

theorem nop : Statement .nop := cmdWord_rsv _ _ _
theorem oscStep (k : Fin 2) : Statement (.oscStep k) := cmdWord_rsv _ _ _
theorem fmStep : Statement .fmStep := cmdWord_rsv _ _ _
theorem fltConfig (i : Fin 8) : Statement (.fltConfig i) := cmdWord_rsv _ _ _
theorem fltApply (i : Fin 8) : Statement (.fltApply i) := cmdWord_rsv _ _ _
theorem dlyConfig : Statement .dlyConfig := cmdWord_rsv _ _ _
theorem dlyRenderL : Statement .dlyRenderL := cmdWord_rsv _ _ _
theorem dlyRenderR : Statement .dlyRenderR := cmdWord_rsv _ _ _
theorem seqFrame : Statement .seqFrame := cmdWord_rsv _ _ _
theorem snsTick (sn : Fin 2) : Statement (.snsTick sn) := cmdWord_rsv _ _ _
theorem snsSample (sn : Fin 2) (row : BitVec 8) : Statement (.snsSample sn row) := cmdWord_rsv _ _ _
theorem snsResolve (sn : Fin 2) : Statement (.snsResolve sn) := cmdWord_rsv _ _ _

end Sys2Proof.Laws.EncodeReserved
end

