-- ==== Sys2Proof/Tests/Slice0.lean ====
section
/-!
SUPPORT. Named tests of the model. Expected results come from the examples of the rules and the vectors of
95_test_vectors.md, never from the model; the witness theorems show a state and operands that meet the hypotheses of
a statement of Certificates/Slice0/Obligations.lean.
-/

namespace Sys2Proof.Tests

open Sys2Proof Sys2Proof.Machine

/-! ## Small states -/

/-- DIM = 3, ROW_READ_LAG = 0, the build of most vectors of 95_test_vectors.md. -/
def b3 : Build := ⟨3, 0, by decide, by decide, by decide⟩

/-- DIM = 16, ROW_READ_LAG = 15, the far end of both parameters. -/
def b16 : Build := ⟨16, 15, by decide, by decide, by decide⟩

/-- The state after reset with DIM = 3. -/
def z : State := State.resetOf b3

def runs (i : Instr) (s : State) : Bool :=
  match exec i s with
  | .next _ => true
  | .fault _ => false
  | .refused _ => false

def after (i : Instr) (s : State) : State :=
  match exec i s with
  | .next t => t
  | .fault _ => s
  | .refused _ => s

/-- Both oscillators configured, as vector FM1 of 95_test_vectors.md starts. -/
def zFm : State :=
  { z with
    status := { z.status with oscCfg := Vector.replicate 2 true }
    osc := #v[⟨0, ONE, 0x40800000, 0, 0⟩, ⟨ONE, ONE, 0x40800000, 0, 0⟩]
    fm := ⟨ONE, 0⟩ }

/-- One oscillator step from these operands. -/
def oscAfter (freq amp fs phase : Word) : Word × Word :=
  let t := after (.oscStep 0) { zFm with osc := #v[⟨freq, amp, fs, phase, 0⟩, ⟨0, 0, 0, 0, 0⟩] }
  (t.osc[0].out, t.osc[0].phase)

/-- A filter with the coefficients of vector FL1 (FS = 4, FC = 1). -/
def fl1 : Filter :=
  ⟨0x40800000, ONE, ONE, 0, ONE, TWO, ONE, 0x405A827A, 0, 0x3F15F61A, 0, 0, 0, 0⟩

/-- The filters 0 to 5 as vector S2 configures them. -/
def zFlt : State := { z with flt := #v[fl1, fl1, fl1, fl1, fl1, fl1, Filter.reset, Filter.reset] }

/-- The delay operands written, before DLY_CONFIG. -/
def zDly (fs sec : Word) : State := { z with dly := { z.dly with fs := fs, sec := sec } }

/-- A configured delay of capacity 8 and length 2, IN = 1, GAIN = 0.5, as vector DL2 has it. -/
def zRender : State :=
  { z with
    status := { z.status with dlyCfg := true }
    dly := ⟨0x41000000, 0x3E800000, 0x3F000000, ONE, 0, 0, 8, 2, 0, 6, 0, 6⟩ }

/-- Sensor 0 after the calibration of vector S1. -/
def sns0 : Sensor :=
  { Sensor.reset b3 0 with
    calState := .done
    mins := #v[0x3E800000, 0x3F000000, 0x3E800000, 0, 0, 0, 0, 0, 0, 0, 0, 0, 0, 0, 0, 0]
    maxs := #v[0x3FA00000, 0x3FC00000, 0x40100000, 0, 0, 0, 0, 0, 0, 0, 0, 0, 0, 0, 0, 0] }

/-- Sensor 1 after the calibration of vector S1. -/
def sns1 : Sensor :=
  { Sensor.reset b3 1 with
    calState := .done
    maxs := #v[ONE, ONE, ONE, 0, 0, 0, 0, 0, 0, 0, 0, 0, 0, 0, 0, 0] }

/-- Both sensors Done, with these readings in AIN[0..2] and ROW at `row`. -/
def zDone (row : Fin 16) (a0 a1 a2 : Word) : State :=
  { zFlt with
    sns := #v[sns0, sns1]
    seq := ⟨row, 2, 0⟩
    ain := #v[a0, a1, a2, 0, 0, 0, 0, 0, 0, 0, 0, 0, 0, 0, 0, 0] }

/-- One grid column from three cells. -/
def col (a b c : Word) : Vector Word 16 := #v[a, b, c, 0, 0, 0, 0, 0, 0, 0, 0, 0, 0, 0, 0, 0]

/-- Both sensors idle with CAL_DUR and the readings of AIN[0..2]. -/
def zTick (dur a0 a1 a2 : Word) : State :=
  { z with
    seq := ⟨0, dur, 0⟩
    ain := #v[a0, a1, a2, 0, 0, 0, 0, 0, 0, 0, 0, 0, 0, 0, 0, 0] }

/-- The state with one pending event. -/
def pend (e : HostEvent) (s : State) : State := { s with port := [e] }

/-! ## WellFormed and the decoder (30_encoding.md R131 to R134; vectors of L2.5) -/

theorem test_wellFormed_row_below_dim : WellFormed 3 (.snsSample 1 2) := by decide
theorem test_illFormed_row_at_dim : ¬ WellFormed 3 (.snsSample 1 3) := by decide
theorem test_illFormed_row_255 : ¬ WellFormed 16 (.snsSample 0 255) := by decide

theorem test_decode_nop : decode 3 0b00000000000000000000000000000000 = .ok .nop := by decide
theorem test_decode_oscStep : decode 3 0b00000001000000000000000000000001 = .ok (.oscStep 1) := by decide
theorem test_decode_fmStep : decode 3 0b00000010000000000000000000000000 = .ok .fmStep := by decide
theorem test_decode_fltConfig : decode 3 0b00010000000000000000000000000111 = .ok (.fltConfig 7) := by decide
theorem test_decode_fltApply : decode 3 0b00010001000000000000000000000011 = .ok (.fltApply 3) := by decide
theorem test_decode_dlyConfig : decode 3 0b00100000000000000000000000000000 = .ok .dlyConfig := by decide
theorem test_decode_dlyRenderL : decode 3 0b00100001000000000000000000000000 = .ok .dlyRenderL := by decide
theorem test_decode_dlyRenderR : decode 3 0b00100010000000000000000000000000 = .ok .dlyRenderR := by decide
theorem test_decode_seqFrame : decode 3 0b00110000000000000000000000000000 = .ok .seqFrame := by decide
theorem test_decode_snsTick : decode 3 0b00110001000000000000000000000001 = .ok (.snsTick 1) := by decide
theorem test_decode_snsSample : decode 3 0b00110010000000000000001000000001 = .ok (.snsSample 1 2) := by decide
theorem test_decode_snsResolve : decode 3 0b00110011000000000000000000000001 = .ok (.snsResolve 1) := by decide

/-- The illegal words of L2.5. -/
theorem test_decode_illegal :
    ([0x00000001, 0x00010000, 0x01000002, 0x03000000, 0x10000008, 0x11000008, 0x20000100, 0x23000000, 0x31000002,
      0x32000003, 0x32000300, 0x34000000, 0xFF000000, 0xFFFFFFFF] : List Word).all
      (fun w => match decode 3 w with | .ok _ => false | .error _ => true) = true := by decide

/-- The opcode table's word of SNS_SAMPLE row 1 decodes in every build, whose DIM is at least 2 (R5). -/
theorem test_decodeTableWord : decodeTableWord 32 0x32000101 = some (.snsSample 1 1) := by
  have h := Config.build.dim_ge
  have e : decode Config.build.dim (tableWord 32 0x32000101) = .ok (.snsSample 1 1) := by
    have t : tableWord 32 0x32000101 = encode (.snsSample 1 1) := by decide
    have a : (argOf (encode (.snsSample 1 1))).toNat < Config.build.dim := by
      rw [show (argOf (encode (.snsSample 1 1))).toNat = 1 from by decide]; omega
    rw [t]
    unfold decode decodeSample
    rw [if_neg (by decide), if_neg (by decide), if_neg (by decide), if_neg (by decide), if_neg (by decide),
      if_neg (by decide), if_neg (by decide), if_neg (by decide), if_neg (by decide), if_neg (by decide),
      if_neg (by decide), if_pos (by decide), dif_pos (by decide), if_pos a]
    rfl
  simp only [decodeTableWord, e]

/-! ## Instructions -/

/-- R351: NOP leaves the reset state. -/
theorem test_nop : exec .nop z = .next z := rfl

/-- R230 and vector O8: FREQ = FS gives an increment of TWO_PI, which wraps to +0.0. -/
theorem test_oscStep_wraps : oscAfter 0x40800000 ONE 0x40800000 0 = (0, 0) := by decide +kernel

/-- Vector O10: the unconfigured OSC1. -/
theorem test_oscStep_unconfigured :
    (readReg .status (after (.oscStep 1) z), (after (.oscStep 1) z).errCmd) = (0x00000004, 0x01000001) := by
  decide +kernel

/-- Vector FM1, step 1: the carrier frequency, the dry output and both phases. -/
theorem test_fmStep :
    let t := after .fmStep zFm
    (t.osc[0].freq, t.fm.fmOut, t.osc[0].phase, t.osc[1].phase) = (0x3F800000, 0, 0x3FC90FDB, 0x3FC90FDB) := by
  decide +kernel

/-- Vector O10: FM_STEP with only OSC0 configured. -/
theorem test_fmStep_unconfigured :
    let t := after .fmStep { z with status := { z.status with oscCfg := #v[true, false] } }
    (readReg .status t, t.errCmd) = (0x00000404, 0x02000000) := by decide +kernel

/-- Vector FL7: FC = 0 gives K = +0.0. -/
theorem test_fltConfig_zero_cutoff :
    let f := (after (.fltConfig 0) (State.setFlt 0 { fl1 with fs := 0x473B8000, fc := 0 } z)).flt[0]
    (f.b0, f.b1, f.b2, f.a0, f.a1, f.a2) = (0, 0, 0, 0x3F800000, 0xC0000000, 0x3F800000) := by decide +kernel

/-- Vector FL8: FS = 0 gives NaN coefficients. -/
theorem test_fltConfig_zero_rate :
    let f := (after (.fltConfig 7) (State.setFlt 7 { fl1 with fs := 0, fc := 0x42C80000 } z)).flt[7]
    (f.b0, f.b1, f.b2, f.a0, f.a1, f.a2) =
      (0x7FC00000, 0x7FC00000, 0x7FC00000, 0x7FC00000, 0x7FC00000, 0x7FC00000) := by decide +kernel

/-- Vector FL2, step 2: the history of step 1 is used and shifted. -/
theorem test_fltApply_step :
    let f := (after (.fltApply 0) (State.setFlt 0 { fl1 with x1 := ONE, y1 := 0x3E95F619 } z)).flt[0]
    (f.output, f.x1, f.x2, f.y1, f.y2) = (0x3F60F126, ONE, ONE, 0x3F60F126, 0x3E95F619) := by decide +kernel

/-- Vector FL6: a bare filter outputs +0.0 and still shifts its input in. -/
theorem test_fltApply_bare :
    let f := (after (.fltApply 3) (State.setFlt 3 { Filter.reset with input := 0xC0400000, x1 := 0x40A00000 } z)).flt[3]
    (f.output, f.x1, f.x2, f.y1) = (0, 0xC0400000, 0x40A00000, 0) := by decide +kernel

/-- Vector DL1: FS = 8, SEC = −0.25 gives a negative length, whose pointer wraps forward. -/
theorem test_dlyConfig_negative_length :
    let t := after .dlyConfig (zDly 0x41000000 0xBE800000)
    (readReg .status t, t.dly.cap, t.dly.len, t.dly.rpL, t.dly.rpR) = (0x00000200, 8, 0xFFFFFFFE, 2, 2) := by
  decide +kernel

/-- Vector DL1: FS = 65537 is beyond the memory. -/
theorem test_dlyConfig_too_long :
    let t := after .dlyConfig (zDly 0x47800080 0x3F000000)
    (readReg .status t, t.errCmd, t.dly.cap) = (0x00000002, 0x20000000, 0) := by decide +kernel

/-- Vector DL2: the left render of an impulse. -/
theorem test_dlyRenderL :
    let t := after .dlyRenderL zRender
    (t.dly.outL, t.memRead .left 0, t.dly.rpL, t.dly.wpR, t.dly.wpL, t.dly.rpR, t.status.dlyPhase) =
      (0, ONE, 7, 1, 0, 6, true) := by decide +kernel

/-- Vector DL6: a second left render in a row raises ErrOrder and executes. -/
theorem test_dlyRenderL_out_of_turn :
    let t := after .dlyRenderL (after .dlyRenderL zRender)
    (readReg .status t, t.errCmd, t.dly.rpL, t.dly.wpR, t.dly.wpL) = (0x00000304, 0x21000000, 0, 2, 0) := by
  decide +kernel

/-- Vector DL6: a right render first raises ErrOrder and executes. -/
theorem test_dlyRenderR_first :
    let t := after .dlyRenderR zRender
    (readReg .status t, t.errCmd, t.dly.rpR, t.dly.wpL) = (0x00000204, 0x22000000, 7, 1) := by decide +kernel

/-- R262: 0.5 × 1.0 is added onto the 1.0 the left render wrote. -/
theorem test_dlyRenderR_feedback :
    (after .dlyRenderR (State.memWrite .right 6 ONE (State.memWrite .left 0 ONE zRender))).memRead .left 0 =
      0x3FC00000 := by decide +kernel

/-- Vector S4: a last row of readings at MIN over a grid of +0.0 resolves both sensors, degenerate. -/
theorem test_seqFrame_last_row :
    let t := after .seqFrame (zDone 2 0x3E800000 0x3F000000 0x3E800000)
    (t.seq.row, t.seq.cycles, (t.sns[0]).peakVal, t.status.degen) = (0, 1, 0, true) := by decide +kernel

/-- Vector S1, frame 1: SNS0 is ticked and SNS1 is not. -/
theorem test_seqFrame_calibrates :
    let t := after .seqFrame (zTick 2 0x3E800000 0x3F000000 0x3E800000)
    ((t.sns[0]).calState, (t.sns[0]).calCnt, (t.sns[1]).calState, t.seq.row) =
      (CalState.measuringMinima, 1, CalState.idle, 0) := by decide +kernel

/-- R320 example: the first tick. -/
theorem test_snsTick :
    let x := (after (.snsTick 0) (zTick 2 0x3E800000 0x3F000000 0x3E800000)).sns[0]
    (x.calState, x.calCnt, x.mins) = (CalState.measuringMinima, 1, col 0x3E800000 0x3F000000 0x3E800000) := by
  decide +kernel

/-- L1.1: with CAL_DUR = 0 the second tick ends in Done. -/
theorem test_snsTick_zero_duration :
    ((after (.snsTick 1) (after (.snsTick 1) (zTick 0 0 0 0))).sns[1]).calState = .done := by decide +kernel

/-- R321 example: one row of sensor 0. -/
theorem test_snsSample :
    let x := (after (.snsSample 0 1) (zDone 0 0x3F000000 0x3FC00000 0x3F400000)).sns[0]
    (x.grid[0][1], x.grid[1][1], x.grid[2][1], x.peakVal, x.peakCol, x.peakRow) =
      (0x3E800000, ONE, 0x3E800000, ONE, 1, 1) := by decide +kernel

/-- Vector S3: with a lag of 1, row 0 is stored at row 2. -/
theorem test_snsSample_lag :
    let x := (after (.snsSample 0 0)
      { zDone 0 0x3E800000 0x3F400000 0x3E800000 with build := ⟨3, 1, by decide, by decide, by decide⟩ }).sns[0]
    (x.grid[0][2], x.grid[1][2], x.grid[2][2], x.peakCol, x.peakRow) = (0, 0x3E800000, 0, 1, 2) := by
  decide +kernel

/-- R322 example: the position of sensor 0 through the filters of vector FL1. -/
theorem test_snsResolve :
    let x := { sns0 with
      grid := (((Vector.replicate 16 (Vector.replicate 16 0)).set 0 (col 0 0x3E800000 0)).set 1
        (col 0x3E800000 ONE 0)).set 2 (col 0 0x3E800000 0), peakVal := ONE, peakCol := 1, peakRow := 1 }
    let t := after (.snsResolve 0) (State.setSns 0 x (zDone 0 0 0 0))
    ((t.sns[0]).posX, (t.sns[0]).posY, (t.sns[0]).posZ, (t.sns[0]).peakVal, t.status.degen) =
      (0x3E15F619, 0x3E0B3FF3, 0x3E95F619, 0, false) := by decide +kernel

/-- Vector S6: a calibrating sensor is not resolved. -/
theorem test_snsResolve_calibrating :
    let t := after (.snsResolve 1) z
    (readReg .status t, t.errCmd) = (0x00000004, 0x33000001) := by decide +kernel

/-! ## Witnesses -/

/-- A reachable-looking state with every unit configured, words in the delay memory and sticky bits set. -/
def busy : State :=
  { zDone 1 0x3F000000 0x3FC00000 0x3F400000 with
    status := ⟨true, true, true, true, true, true, #v[true, true]⟩
    errCmd := 0x01000001
    osc := zFm.osc
    fm := zFm.fm
    dly := zRender.dly
    dmemL := [(0, ONE)]
    dmemR := [(6, TWO), (7, ONE)] }

/-- Every command answers a next state from `busy`, so the hypothesis `exec i s = next t` is met for each. -/
theorem witness_every_command_completes :
    [Instr.nop, .oscStep 0, .oscStep 1, .fmStep, .fltConfig 0, .fltConfig 7, .fltApply 0, .fltApply 7, .dlyConfig,
      .dlyRenderL, .dlyRenderR, .seqFrame, .snsTick 0, .snsTick 1, .snsSample 0 0, .snsSample 1 2, .snsResolve 0,
      .snsResolve 1].all (fun i => runs i busy) = true := by decide +kernel

/-- An answered command as the equation the statements assume. -/
theorem exec_of_runs (i : Instr) (s : State) (h : runs i s = true) : ∃ t, exec i s = .next t := by
  unfold runs at h
  cases e : exec i s with
  | next t => exact ⟨t, rfl⟩
  | fault f => rw [e] at h; cases h
  | refused r => rw [e] at h; cases h

/-- A step that takes a write of STATUS answers a next state. -/
theorem step_of_status_write (v : Word) (s : State) : ∃ t, step (pend (.write 3 v) s) = .next t :=
  ⟨_, hostWrite_reg 3 .status v { s with port := [] } (by decide) (by decide)⟩

/-- A step that takes a write of CMD answers a next state where the command does. -/
theorem step_of_command (w : Word) (i : Instr) (s : State) (hd : decode s.build.dim w = .ok i)
    (h : runs i { s with port := [] } = true) : ∃ t, step (pend (.write cmdIndex w) s) = .next t := by
  obtain ⟨t, ht⟩ := exec_of_runs i { s with port := [] } h
  exact ⟨t, (hostWrite_cmd w { s with port := [] }).trans ((executeCommand_ok w i { s with port := [] } hd).trans ht)⟩

theorem witness_DecodeEncodeRoundTrip : WellFormed 3 (.snsSample 1 2) ∧ WellFormed 256 (.snsSample 0 255) := by decide

theorem witness_DecodedWordIsItsEncoding : decode 3 0x32000201 = .ok (.snsSample 1 2) := by decide

/-- The extreme operands of every row of the table meet the right side of its clause. -/
theorem witness_OpcodeTableSelects :
    ((0x01000001 : Word) &&& 0xFFFFFFFE = 0x01000000 ∧ ((0x01000001 : Word).extractLsb' 0 1).toNat = 1) ∧
    ((0x10000007 : Word) &&& 0xFFFFFFF8 = 0x10000000 ∧ ((0x10000007 : Word).extractLsb' 0 3).toNat = 7) ∧
    ((0x11000000 : Word) &&& 0xFFFFFFF8 = 0x11000000 ∧ ((0x11000000 : Word).extractLsb' 0 3).toNat = 0) ∧
    ((0x31000001 : Word) &&& 0xFFFFFFFE = 0x31000000) ∧ ((0x33000000 : Word) &&& 0xFFFFFFFE = 0x33000000) ∧
    ((0x32000F01 : Word) &&& 0xFFFF00FE = 0x32000000 ∧ (0x32000F01 : Word).extractLsb' 8 8 = 15) := by decide

theorem witness_RegisterMapAgreesWithOffsets :
    regOf 0 = some .id ∧ regOf 0x5FF = some (.grid 1 15 15) ∧ Reg.offset (.grid 1 15 15) = 4 * 0x5FF := by decide

theorem witness_StepRunsDecodedCommand :
    (pend (.write 4 0x32000201) z).port = [.write 4 0x32000201] ∧
    decode (pend (.write 4 0x32000201) z).build.dim 0x32000201 = .ok (.snsSample 1 2) ∧
    decode z.build.dim (BitVec.ofNat 32 0x33000001) = .ok (.snsResolve 1) ∧ 0x33000001 < 2 ^ 32 := by decide

theorem witness_IllegalCommandOnlyRaises :
    (pend (.write 4 0x32000300) z).port = [.write 4 0x32000300] ∧
    decode (pend (.write 4 0x32000300) z).build.dim 0x32000300 = .error .row ∧
    (pend (.write 4 0x32000300) z).build.dim = 3 := by decide

/-- The offset 0x0018 after the last global register, and the last word of the space, name no register. -/
theorem no_register_at (r : Reg) : r.offset ≠ 0x0018 ∧ r.offset ≠ 0x1FFC := by
  cases r <;> simp only [Reg.offset] <;> (try split) <;> omega

theorem witness_ReadHasNoSideEffect :
    (pend (.read 3) z).port = [.read 3] ∧ 4 * (3 : BitVec 11).toNat = Reg.offset .status ∧
    (pend (.read 6) z).port = [.read 6] ∧ (∀ r : Reg, r.offset ≠ 4 * (6 : BitVec 11).toNat) ∧ z.port = [] :=
  ⟨rfl, rfl, rfl, fun r => (no_register_at r).1, rfl⟩

theorem witness_UnmappedReadsZeroAndIgnoresWrites :
    (pend (.read 2047) z).port = [.read 2047] ∧ (pend (.write 2047 1) z).port = [.write 2047 1] ∧
    ∀ r : Reg, r.offset ≠ 4 * (2047 : BitVec 11).toNat :=
  ⟨rfl, rfl, fun r => (no_register_at r).2⟩

/-- One register for each clause: COLCH below and from DIM on, RO, and every kind of RW register. -/
theorem witness_RegisterWriteStoresOneRegister :
    ([Reg.colch 0 2, .colch 1 3, .id, .osc 0 .freq, .osc 1 .amp, .osc 1 .fs, .carBase, .flt 0 .fs, .flt 7 .fc,
      .flt 7 .input, .dly .fs, .dly .sec, .dly .gain, .dly .input, .calDur, .ain 15].all fun r =>
      decide (r ≠ .cmd ∧ r ≠ .status ∧
        (pend (.write (BitVec.ofNat 11 (r.offset / 4)) 0x15) z).port =
          [.write (BitVec.ofNat 11 (r.offset / 4)) 0x15])) = true ∧
    Reg.plainRW .carBase = true ∧ (2 : Fin 16).val < z.build.dim ∧ z.build.dim ≤ (3 : Fin 16).val ∧
    Reg.readOnly .id = true := by decide

theorem witness_StatusWriteClearsStickyBits : (pend (.write 3 0xF) busy).port = [.write 3 0xF] := rfl

/-- The write of OSC1.FS, and a step that takes a write of STATUS while OSC1 is configured. -/
theorem witness_OscillatorRateWriteConfigures :
    (pend (.write (BitVec.ofNat 11 ((0x0108 + 0x20 * 1) / 4)) ONE) z).port = [.write 0x4A ONE] ∧
    (pend (.write 3 0xF) busy).status.oscCfg[1] = true ∧ (∃ t, step (pend (.write 3 0xF) busy) = .next t) ∧
    (pend (.write 3 0xF) busy).port.head? ≠ some .reset :=
  ⟨rfl, rfl, step_of_status_write 0xF busy, by decide⟩

theorem witness_ResetInputRestoresResetState : (pend .reset busy).port = [.reset] := rfl

/-- The last column with a channel, and a register of the last clause. -/
theorem witness_RegistersAfterReset :
    (2 : Fin 16).val < b3.dim ∧ b3.dim ≤ (3 : Fin 16).val ∧ (15 : Fin 16).val < b16.dim ∧ Reg.calDur ≠ .id ∧ Reg.calDur ≠ .hwcfg ∧
    Reg.calDur ≠ .dlyDepth ∧ Reg.calDur ≠ .seqState ∧ ∀ sn c, Reg.calDur ≠ .colch sn c :=
  ⟨by decide, by decide, by decide, by decide, by decide, by decide, by decide, fun _ _ h => by cases h⟩

/-- The last column and row inside the matrix and the first outside it, and a build without an outside. -/
theorem witness_RegistersReadTheirFields :
    (2 : Fin 16).val < z.build.dim ∧ z.build.dim ≤ (3 : Fin 16).val ∧ z.build.dim ≤ (15 : Fin 16).val ∧
    (15 : Fin 16).val < (State.resetOf b16).build.dim := by decide

theorem witness_NopChangesNothing : (0x00FF0001 : Word).extractLsb' 24 8 = 0x00 ∧ (0x00FF0001 : Word) ≠ 0 := by decide

theorem witness_OscStepResult : busy.status.oscCfg[0] = true ∧ z.status.oscCfg[1] = false := by decide

theorem witness_FmStepResult :
    (busy.status.oscCfg[0] = true ∧ busy.status.oscCfg[1] = true) ∧
    (z.status.oscCfg[0] = false ∨ z.status.oscCfg[1] = false) := by decide

/-- The capacities 1 and 65536 and the lengths −2^31 and 2^31 − 128 are accepted. -/
theorem witness_DlyConfigResult :
    ([(0x3F800000, 0x00000000), (0x47800000, 0x3F000000), (0x47800000, 0xC7000000), (0x47800000, 0x46FFFFFF)] :
      List (Word × Word)).all (fun p => isFinite p.1 && isFinite (fmul p.1 p.2) && decide (1 ≤ ftoiTrunc p.1 ∧
        ftoiTrunc p.1 ≤ 65536 ∧ -2147483648 ≤ ftoiTrunc (fmul p.1 p.2) ∧
        ftoiTrunc (fmul p.1 p.2) ≤ 2147483647)) = true := by decide +kernel

/-- Each refusal of DLY_CONFIG on its own. -/
theorem witness_DlyConfigResult_refusals :
    isFinite 0x7F800000 = false ∧ isFinite (fmul 0x41000000 0x7FC00000) = false ∧ ftoiTrunc 0x3F000000 < 1 ∧
    65536 < ftoiTrunc 0x47800080 ∧ ftoiTrunc (fmul 0x47800000 0xC7000080) < -2147483648 ∧
    2147483647 < ftoiTrunc (fmul 0x47800000 0x47000000) := by decide +kernel

theorem zRender_inRange : zRender.dly.InRange :=
  ⟨by decide, by decide, by decide, by decide, by decide, by decide⟩

theorem witness_LeftRenderResult :
    zRender.status.dlyCfg = true ∧ zRender.dly.InRange ∧ zRender.dmemL.wf = true ∧ zRender.dmemR.wf = true ∧
    z.status.dlyCfg = false := ⟨rfl, zRender_inRange, rfl, rfl, rfl⟩

theorem busy_inRange : busy.dly.InRange := zRender_inRange

theorem witness_RightRenderResult :
    busy.status.dlyCfg = true ∧ busy.dly.InRange ∧ busy.dmemL.wf = true ∧ z.status.dlyCfg = false :=
  ⟨rfl, busy_inRange, by decide, rfl⟩

/-- The first index outside the memory, at either read pointer, and a capacity of 0. -/
theorem witness_RenderStopsOutsideMemory :
    ({ zRender with dly := { zRender.dly with cap := 0 } } : State).dly.cap = 0 ∧ zRender.dly.cap ≠ 0 ∧
    65536 ≤ ({ zRender with dly := { zRender.dly with rpL := 65536, rpR := 65536 } } : State).dly.rpL.toNat ∧
    65536 ≤ ({ zRender with dly := { zRender.dly with rpL := 65536, rpR := 65536 } } : State).dly.rpR.toNat ∧
    ({ zRender with dly := { zRender.dly with rpL := 65536, rpR := 65536 } } : State).status.dlyCfg = true := by decide

/-- Each calibration state, with the count below and at its end. -/
theorem witness_SnsTickResult :
    ((zTick 2 0 0 0).sns[0]).calState = .idle ∧
    ¬ (zTick 2 0 0 0).seq.calDur.toNat ≤ ((zTick 2 0 0 0).sns[0]).calCnt.toNat + 1 ∧
    (zTick 1 0 0 0).seq.calDur.toNat ≤ ((zTick 1 0 0 0).sns[0]).calCnt.toNat + 1 ∧
    (((zTick 2 0 0 0).setSns 1 { sns1 with calState := .measuringMaxima, calCnt := 1 }).sns[1]).calState =
      .measuringMaxima ∧
    ((zDone 0 0 0 0).sns[1]).calState = .done := by decide

theorem witness_SnsSampleGridResult :
    ((zDone 0 0 0 0).sns[0]).calState = .done ∧ ((zTick 2 0 0 0).sns[0]).calState ≠ .done := by decide

/-- A row in which no column exceeds the tracked peak, and one in which one does. -/
theorem witness_SnsSampleTracksPeak :
    ((zDone 0 0 0 0).sns[0]).calState = .done ∧ runs (.snsSample 0 1) (zDone 0 0 0 0) = true ∧
    ((after (.snsSample 0 1) (zDone 0 0x3E800000 0x3F000000 0x3E800000)).sns[0]).peakVal = 0 ∧
    fgt (sns0.normalize 1 0x3FC00000) 0 = true ∧
    runs (.snsSample 0 1) (zDone 0 0x3F000000 0x3FC00000 0x3F400000) = true := by decide +kernel

theorem witness_SnsResolveResult :
    ((zDone 0 0 0 0).sns[1]).calState = .done ∧ ((zTick 2 0 0 0).sns[1]).calState ≠ .done := by decide

theorem witness_SeqFrameResult :
    ((zTick 2 0 0 0).sns[0]).calState ≠ .done ∧
    (((zTick 2 0 0 0).setSns 0 sns0).sns[0]).calState = .done ∧
    (((zTick 2 0 0 0).setSns 0 sns0).sns[1]).calState ≠ .done ∧
    ((zDone 1 0 0 0).sns[0]).calState = .done ∧ ((zDone 1 0 0 0).sns[1]).calState = .done ∧
    (zDone 1 0 0 0).seq.row.val ≠ (zDone 1 0 0 0).build.dim - 1 ∧
    (zDone 2 0 0 0).seq.row.val = (zDone 2 0 0 0).build.dim - 1 := by decide

/-- Phases at both ends of the range, with increments near both bounds. -/
theorem witness_PhaseStaysInRange :
    ([(0x00000000, 0x3F800000), (0x40C90FDA, 0x407FFFFF), (0x00000000, 0xC07FFFFF)] : List (Word × Word)).all
      (fun p => fge p.1 ZERO && flt p.1 TWO_PI && flt (fneg TWO_PI) (fdiv (fmul TWO_PI p.2) 0x40800000) &&
        flt (fdiv (fmul TWO_PI p.2) 0x40800000) TWO_PI) = true := by decide +kernel

/-- With D = 3, the premises of each clause at its boundary counts 0, 1, D − 1, D, 2D − 1 and 2D; and D = 0. -/
theorem witness_CalibrationLength :
    (((zTick 3 0 0 0).sns[1]).calState = .idle ∧ ((zTick 3 0 0 0).sns[1]).calCnt = 0 ∧
      (zTick 3 0 0 0).seq.calDur.toNat = 3 ∧ 1 ≤ 3 ∧ ∀ n ∈ [0, 1, 2, 3, 5, 6], n ≤ 2 * 3) ∧
    (0 = 0) ∧ (1 ≤ 1 ∧ 1 < 3) ∧ (1 ≤ 2 ∧ 2 < 3) ∧ (3 ≤ 3 ∧ 3 < 2 * 3) ∧ (3 ≤ 5 ∧ 5 < 2 * 3) ∧ (6 = 2 * 3) ∧
    ((zTick 0 0 0 0).seq.calDur = 0 ∧ ((zTick 0 0 0 0).sns[1]).calState = .idle ∧
      ((zTick 0 0 0 0).sns[1]).calCnt = 0) := by decide

/-- The ticks at those counts, one at a time, as R323 has them: into MeasuringMinima at 1, into MeasuringMaxima at D,
into Done at 2D. -/
theorem witness_CalibrationLength_counts :
    let at' := fun (c : CalState) (n : Word) =>
      let x := (after (.snsTick 1) ((zTick 3 0 0 0).setSns 1 { Sensor.reset b3 1 with calState := c, calCnt := n })).sns[1]
      (x.calState, x.calCnt)
    at' .idle 0 = (.measuringMinima, 1) ∧ at' .measuringMinima 1 = (.measuringMinima, 2) ∧
    at' .measuringMinima 2 = (.measuringMaxima, 0) ∧ at' .measuringMaxima 1 = (.measuringMaxima, 2) ∧
    at' .measuringMaxima 2 = (.done, 0) := by decide +kernel

/-- With D = 1 and DIM = 3, and the premises of each clause at its boundary counts: 2D, 4D, the frame before the first
resolution, and the frames that resolve nothing before and after it. -/
theorem witness_FrameAccounting :
    ((zTick 1 0 0 0).sns[0]).calState = .idle ∧ ((zTick 1 0 0 0).sns[1]).calState = .idle ∧
    ((zTick 1 0 0 0).sns[0]).calCnt = 0 ∧ ((zTick 1 0 0 0).sns[1]).calCnt = 0 ∧ (zTick 1 0 0 0).seq.row = 0 ∧
    (zTick 1 0 0 0).seq.cycles = 0 ∧ (zTick 1 0 0 0).seq.calDur.toNat = 1 ∧
    (1 < 2 * 1 ∧ 2 * 1 ≤ 2 ∧ 3 < 4 * 1 ∧ 4 * 1 ≤ 4 ∧ 4 ≤ 4 * 1) ∧
    (4 * 1 ≤ 6 ∧ (6 + 1 - 4 * 1) % (zTick 1 0 0 0).build.dim = 0) ∧
    (5 + 1 - 4 * 1) % (zTick 1 0 0 0).build.dim ≠ 0 ∧ (7 + 1 - 4 * 1) % (zTick 1 0 0 0).build.dim ≠ 0 := by decide

theorem witness_RenderPairKeepsPointerDistance :
    zRender.status.dlyCfg = true ∧ zRender.status.dlyPhase = false ∧ zRender.dly.InRange ∧
    zRender.dly.wpL = zRender.dly.wpR ∧ zRender.dly.rpL = zRender.dly.rpR ∧
    ((zRender.dly.wpL.toNat : Int) - zRender.dly.rpL.toNat) % zRender.dly.cap.toNat =
      zRender.dly.len.toInt % zRender.dly.cap.toNat :=
  ⟨rfl, rfl, zRender_inRange, rfl, rfl, by decide⟩

/-- A delay of length 0, the case in which M is CAP. -/
def zRender0 : State :=
  { zRender with dly := { zRender.dly with cap := 4, len := 0, rpL := 0, rpR := 0 } }

/-- Both cases of R264: m = 2 and m = 0. -/
theorem witness_DelayImpulseResponse :
    (zRender.status.dlyCfg = true ∧ zRender.dly.InRange ∧ zRender.dmemL.wf = true ∧ zRender.dmemR.wf = true ∧
      zRender.dly.wpL = 0 ∧ zRender.dly.wpR = 0 ∧
      (zRender.dly.rpL.toNat : Int) = (-zRender.dly.len.toInt) % zRender.dly.cap.toNat ∧
      zRender.dly.rpR = zRender.dly.rpL ∧
      (zRender.dly.len.toInt % zRender.dly.cap.toNat).toNat = 2 ∧
      (∀ n, n < 2 → zRender.memRead .left ((zRender.dly.rpL.toNat + n) % zRender.dly.cap.toNat) = 0) ∧
      (∀ n, n < 2 → zRender.memRead .right ((zRender.dly.rpR.toNat + n) % zRender.dly.cap.toNat) = 0)) ∧
    zRender0.dly.InRange ∧
    (zRender0.dly.rpL.toNat : Int) = (-zRender0.dly.len.toInt) % zRender0.dly.cap.toNat ∧
    (zRender0.dly.len.toInt % zRender0.dly.cap.toNat).toNat = 0 ∧
    (∀ n, n < 4 → zRender0.memRead .left ((zRender0.dly.rpL.toNat + n) % zRender0.dly.cap.toNat) = 0) :=
  ⟨⟨rfl, zRender_inRange, rfl, rfl, rfl, rfl, by decide, rfl, by decide,
      fun _ _ => rfl, fun _ _ => rfl⟩,
    ⟨by decide, by decide, by decide, by decide, by decide, by decide⟩, by decide, by decide, fun _ _ => rfl⟩

/-- A gain of −0.0 over a memory with stale words. -/
theorem witness_SilentPairsClearDelayMemory :
    let s : State := { busy with dly := { busy.dly with gain := 0x80000000, input := 0 } }
    s.status.dlyCfg = true ∧ s.dly.InRange ∧ s.dmemL.wf = true ∧ s.dmemR.wf = true ∧ isZero s.dly.gain = true ∧
    s.dly.input = 0 ∧ ∀ ch j, isFinite (s.memRead ch j) = true := by
  refine ⟨rfl, ⟨by decide, by decide, by decide, by decide, by decide, by decide⟩, by decide, by decide, by decide,
    rfl, fun ch j => ?_⟩
  cases ch <;> simp only [State.memRead, State.dmem, busy, DelayMem.read] <;> (repeat' split) <;> decide

theorem witness_SymmetricPeakHasZeroOffset :
    isFinite 0x00000000 = true ∧ isFinite 0x7F7FFFFF = true ∧ isFinite 0x80000001 = true := by decide

theorem witness_FlatGridIsDegenerate :
    ((zDone 0 0 0 0).sns[1]).calState = .done ∧
    ((zDone 0 0 0 0).sns[1]).grid = Vector.replicate 16 (Vector.replicate 16 0) ∧
    ((zDone 0 0 0 0).sns[1]).peakVal = 0 ∧ ((zDone 0 0 0 0).sns[1]).peakCol = 0 ∧
    ((zDone 0 0 0 0).sns[1]).peakRow = 0 := ⟨rfl, rfl, rfl, rfl, rfl⟩

theorem witness_ZeroRateFilterIsNaN : isZero (z.flt[7]).fs = true ∧ isZero 0x80000000 = true := by decide

/-- The largest finite numbers and the smallest subnormal. -/
theorem witness_AdditionRoundsCorrectly :
    isFinite 0x7F7FFFFF = true ∧ isFinite 0xFF7FFFFF = true ∧ isFinite 0x00000001 = true := by decide

theorem witness_MultiplicationRoundsCorrectly : isFinite 0x7F7FFFFF = true ∧ isFinite 0x80000001 = true := by decide

theorem witness_DivisionRoundsCorrectly :
    isFinite 0x7F7FFFFF = true ∧ isFinite 0x80000001 = true ∧ isZero 0x80000001 = false := by decide

/-- Finite operands that are zero and not, infinities, NaNs, and an infinity as a factor that is no NaN and no zero. -/
theorem witness_SpecialValueRules :
    (isFinite 0x80000001 = true ∧ isZero 0x80000001 = false ∧ isZero 0x80000000 = true ∧
      isFinite 0x80000000 = true) ∧
    (isInf 0xFF800000 = true ∧ isInf 0x7F800000 = true) ∧ (isNaN 0x7F800001 = true ∧ isNaN 0xFFFFFFFF = true) ∧
    (isNaN 0xFF800000 = false ∧ isZero 0xFF800000 = false) := by decide

/-- Each operation gives a NaN somewhere. -/
theorem witness_NaNResultsAreCanonical :
    isNaN (fadd 0x7F800000 0xFF800000) = true ∧ isNaN (fsub 0x7F800000 0x7F800000) = true ∧
    isNaN (fmul 0 0x7F800000) = true ∧ isNaN (fdiv 0 0x80000000) = true := by decide

theorem witness_ComparisonsOrderTheNumbers :
    isFinite 0x00000000 = true ∧ isFinite 0x80000000 = true ∧ isNaN 0xFFC00000 = true := by decide

theorem witness_SmallIntegersConvertExactly : (-16777216 : Int).natAbs ≤ 2 ^ 24 ∧ (0 : Int).natAbs ≤ 2 ^ 24 := by
  decide

/-- Both branches: +0.0 and −1.0. -/
theorem witness_TruncationIsTowardZero :
    isFinite 0x00000000 = true ∧ 0 ≤ toRat 0x00000000 ∧ isFinite 0xBF800000 = true ∧ ¬ 0 ≤ toRat 0xBF800000 := by
  refine ⟨by decide, ?_, by decide, ?_⟩
  · rw [toRat, show fsigned 0x00000000 = 0 from by decide]; simp
  · rw [toRat, show fsigned 0xBF800000 = -8388608 from by decide, show fscale 0xBF800000 = -23 from by decide]
    norm_num

/-- The smallest number below 0, the smallest above 1, −0.0 and NaN, which neither comparison takes, and both ends. -/
theorem witness_ClampLandsInUnitInterval :
    isNaN 0x80000000 = false ∧ flt 0x80000001 ZERO = true ∧ fgt 0x3F800001 ONE = true ∧
    (flt 0x80000000 ZERO = false ∧ fgt 0x80000000 ONE = false) ∧
    (flt 0x7FC00000 ZERO = false ∧ fgt 0x7FC00000 ONE = false) ∧
    (fge ZERO ZERO = true ∧ fge ONE ZERO = true ∧ fge ONE ONE = true) ∧ isNaN 0x7FC00000 = true := by decide

/-- The invariant holds of `busy`, in which every unit has run. -/
theorem busy_inv : busy.Inv where
  memL := by decide
  memR := by decide
  delay := fun _ => busy_inRange
  delayUnconfigured := fun h => by cases h
  oscillator := by decide
  row := by decide
  sequenced := fun _ => ⟨rfl, rfl⟩
  sensor := fun sn => by
    constructor <;> revert sn <;> decide +kernel

theorem witness_StepKeepsInvariant :
    ∃ s t : State, s.Inv ∧ s.port ≠ [] ∧ step s = .next t := by
  refine ⟨{ busy with port := [.read 3] }, _, ?_, by decide, rfl⟩
  exact ⟨busy_inv.memL, busy_inv.memR, busy_inv.delay, busy_inv.delayUnconfigured, busy_inv.oscillator, busy_inv.row,
    busy_inv.sequenced, busy_inv.sensor⟩

theorem witness_RunsNeverStop : busy.Inv := busy_inv

/-- FM_STEP, and a command that is not FM_STEP. -/
theorem witness_CommandsLeaveHostRegisters :
    (∃ t, exec .fmStep busy = .next t) ∧ (∃ t, exec (.oscStep 0) busy = .next t) ∧ Instr.oscStep 0 ≠ .fmStep :=
  ⟨exec_of_runs _ _ (by decide +kernel), exec_of_runs _ _ (by decide +kernel), by decide⟩

/-- A command that is no render, and the right render. -/
theorem witness_OnlyRendersChangeDelayMemory :
    (∃ t, exec .dlyConfig busy = .next t) ∧ Instr.dlyConfig ≠ .dlyRenderL ∧ Instr.dlyConfig ≠ .dlyRenderR ∧
    (∃ t, exec .dlyRenderR busy = .next t) :=
  ⟨exec_of_runs _ _ (by decide +kernel), by decide, by decide, exec_of_runs _ _ (by decide +kernel)⟩

/-- One command for each clause, with an index outside the unit it touches. -/
theorem witness_CommandsTouchOnlyTheirUnit :
    (∀ i ∈ [Instr.oscStep 0, .fltApply 7, .snsResolve 1, .seqFrame, .nop, .snsSample 1 2, .fmStep],
      ∃ t, exec i busy = .next t) ∧
    (1 : Fin 2) ≠ 0 ∧ (6 : Fin 8) ≠ 7 ∧ (2 : Fin 8).val / 3 ≠ (1 : Fin 2).val ∧ 6 ≤ (6 : Fin 8).val := by
  refine ⟨fun i hi => exec_of_runs i busy ?_, by decide⟩
  have h : ∀ i ∈ [Instr.oscStep 0, .fltApply 7, .snsResolve 1, .seqFrame, .nop, .snsSample 1 2, .fmStep],
      runs i busy = true := by decide +kernel
  exact h i hi

/-- A command that raises ErrOrder, one that raises ErrConfig, and one that raises nothing. -/
theorem witness_ErrorsRaisedExactly :
    (∃ t, exec .dlyRenderL busy = .next t) ∧ busy.status.dlyPhase = true ∧
    (∃ t, exec .dlyConfig z = .next t) ∧ z.dly.plan.isNone = true ∧ (∃ t, exec .nop z = .next t) :=
  ⟨exec_of_runs _ _ (by decide +kernel), rfl, exec_of_runs _ _ (by decide +kernel), by decide +kernel, z, rfl⟩

theorem witness_StickyBitsClearedOnlyByHost :
    (∃ t, step (pend (.write 3 0xF) busy) = .next t) ∧ (pend (.write 3 0xF) busy).port.head? ≠ some .reset ∧
    busy.status.errIllegal = true ∧ busy.status.errConfig = true ∧ busy.status.errOrder = true ∧
    busy.status.degen = true ∧ busy.errCmd ≠ 0 := by
  exact ⟨step_of_status_write 0xF busy, by decide⟩

/-- Two states that differ in sticky bits and ERR_CMD alone. -/
theorem witness_ResultsIndependentOfStickyBits :
    forgetErrors zRender = forgetErrors (raise .errOrder 0x22000000 zRender) ∧
    zRender ≠ raise .errOrder 0x22000000 zRender := by
  refine ⟨rfl, fun h => ?_⟩
  have h2 := congrArg State.errCmd h
  exact absurd h2 (by decide)

/-- Both sensors Done, and a step that takes SNS_TICK 0. -/
theorem witness_DoneIsTerminal :
    let s := pend (.write cmdIndex 0x31000000) (zDone 0 0 0 0)
    (s.sns[0]).calState = .done ∧ (s.sns[1]).calState = .done ∧ (∃ t, step s = .next t) ∧
    s.port.head? ≠ some .reset :=
  ⟨rfl, rfl, step_of_command 0x31000000 (.snsTick 0) (zDone 0 0 0 0) (by decide) (by decide +kernel), by decide⟩

theorem witness_ExactlyOneRowIsDriven : busy.Inv ∧ rowDrive busy 1 = true ∧ rowDrive busy 0 = false :=
  ⟨busy_inv, by decide, by decide⟩

end Sys2Proof.Tests
end

section
/-!
The numbers of R9. A finite pattern is a sign and a magnitude: the low 31 bits, read as a natural, count the
non-negative binary32 numbers in ascending order. `magnitude` is that enumeration. The comparisons are its
monotonicity, and rounding to nearest even is a statement about two of its neighbours.
-/

namespace Sys2Proof.Machine

/-! ## Signs and magnitudes -/

/-- `x` with a sign put to it. -/
def withSign (neg : Bool) (x : ℚ) : ℚ := if neg then -x else x

@[simp] theorem withSign_false (x : ℚ) : withSign false x = x := rfl

@[simp] theorem withSign_true (x : ℚ) : withSign true x = -x := rfl

@[simp] theorem abs_withSign (neg : Bool) (x : ℚ) : |withSign neg x| = |x| := by
  cases neg <;> simp

theorem withSign_eq_zero {neg : Bool} {x : ℚ} : withSign neg x = 0 ↔ x = 0 := by
  cases neg <;> simp

theorem withSign_mul (p q : Bool) (x y : ℚ) :
    withSign p x * withSign q y = withSign (p != q) (x * y) := by
  cases p <;> cases q <;> simp

theorem withSign_div (p q : Bool) (x y : ℚ) :
    withSign p x / withSign q y = withSign (p != q) (x / y) := by
  cases p <;> cases q <;> simp [neg_div, div_neg]

theorem withSign_lt_zero {neg : Bool} {x : ℚ} (hx : 0 < x) : withSign neg x < 0 ↔ neg = true := by
  cases neg
  · simpa using hx.le
  · simpa using hx

theorem withSign_mul_right (neg : Bool) (x y : ℚ) : withSign neg (x * y) = withSign neg x * y := by
  cases neg <;> simp

theorem withSign_natAbs (m : ℤ) : withSign (decide (m < 0)) m.natAbs = m := by
  rw [Nat.cast_natAbs]
  by_cases h : m < 0
  · simp [h, abs_of_neg h]
  · simp [h, abs_of_nonneg (not_lt.1 h)]

/-- The number of the `k`-th non-negative pattern, and its continuation beyond the finite ones. -/
def magnitude (k : ℕ) : ℚ :=
  (if k / 2 ^ 23 = 0 then k % 2 ^ 23 else k % 2 ^ 23 + 2 ^ 23 : ℕ) *
    (2 : ℚ) ^ ((max (k / 2 ^ 23) 1 : ℕ) - 150 : ℤ)

theorem fexp_eq_div (x : Word) : fexp x = x.toNat % 2 ^ 31 / 2 ^ 23 := by
  unfold fexp; omega

theorem ffrac_eq_mod (x : Word) : ffrac x = x.toNat % 2 ^ 31 % 2 ^ 23 := by
  unfold ffrac; omega

theorem fsig_mul_fscale (x : Word) : (fsig x : ℚ) * 2 ^ fscale x = magnitude (x.toNat % 2 ^ 31) := by
  simp only [fsig, fscale, magnitude, fexp_eq_div, ffrac_eq_mod]

theorem toRat_eq_withSign (x : Word) : toRat x = withSign (fsign x) (fsig x * 2 ^ fscale x) := by
  cases h : fsign x <;> simp [toRat, fsigned, h]

/-- A word stands for its sign and its magnitude. -/
theorem toRat_eq_magnitude (x : Word) : toRat x = withSign (fsign x) (magnitude (x.toNat % 2 ^ 31)) := by
  rw [toRat_eq_withSign, fsig_mul_fscale]

theorem isFinite_iff_lt (x : Word) : isFinite x = true ↔ x.toNat % 2 ^ 31 < 0x7F800000 := by
  simp only [isFinite, fexp_eq_div, bne_iff_ne]; omega

theorem fsig_eq_zero_iff (x : Word) : fsig x = 0 ↔ isZero x = true := by
  simp only [fsig, isZero, Bool.and_eq_true, beq_iff_eq]
  split <;> simp [*]

theorem toRat_eq_zero_iff (x : Word) : toRat x = 0 ↔ isZero x = true := by
  rw [toRat_eq_withSign, withSign_eq_zero, ← fsig_eq_zero_iff]
  simp [zpow_ne_zero]

/-! ## The magnitudes ascend -/

/-- A magnitude with the significand `q` in units of `2 ^ (u - 149)`; a significand of `2 ^ 24` carries. -/
theorem magnitude_unit {u q : ℕ} (hq : q ≤ 2 ^ 24) (hu : u = 0 ∨ 2 ^ 23 ≤ q) :
    magnitude (u * 2 ^ 23 + q) = q * (2 : ℚ) ^ (u - 149 : ℤ) := by
  have carry : q = 2 ^ 24 ∨ (q < 2 ^ 23 ∧ u = 0) ∨ (2 ^ 23 ≤ q ∧ q < 2 ^ 24) := by omega
  unfold magnitude
  rcases carry with rfl | ⟨hlt, rfl⟩ | ⟨hle, hlt⟩
  · have hdiv : (u * 2 ^ 23 + 2 ^ 24) / 2 ^ 23 = u + 2 := by omega
    have hmod : (u * 2 ^ 23 + 2 ^ 24) % 2 ^ 23 = 0 := by omega
    have hexp : ((max (u + 2) 1 : ℕ) - 150 : ℤ) = (u - 149 : ℤ) + 1 := by omega
    rw [hdiv, hmod, hexp, zpow_add_one₀ two_ne_zero]
    simp; ring
  · have hdiv : (0 * 2 ^ 23 + q) / 2 ^ 23 = 0 := by omega
    have hmod : (0 * 2 ^ 23 + q) % 2 ^ 23 = q := by omega
    rw [hdiv, hmod]; simp
  · have hdiv : (u * 2 ^ 23 + q) / 2 ^ 23 = u + 1 := by omega
    have hmod : (u * 2 ^ 23 + q) % 2 ^ 23 + 2 ^ 23 = q := by omega
    have hexp : ((max (u + 1) 1 : ℕ) - 150 : ℤ) = u - 149 := by omega
    rw [hdiv, if_neg (by omega), hmod, hexp]

theorem magnitude_zero : magnitude 0 = 0 := by simp [magnitude]

theorem magnitude_strictMono : StrictMono magnitude := by
  refine strictMono_nat_of_lt_succ fun k => ?_
  obtain ⟨u, q, rfl, hq, hu⟩ : ∃ u q, k = u * 2 ^ 23 + q ∧ q < 2 ^ 24 ∧ (u = 0 ∨ 2 ^ 23 ≤ q) := by
    by_cases h : k < 2 ^ 24
    · exact ⟨0, k, by omega, h, .inl rfl⟩
    · exact ⟨k / 2 ^ 23 - 1, k % 2 ^ 23 + 2 ^ 23, by omega, by omega, .inr (by omega)⟩
  rw [add_assoc, magnitude_unit hq.le hu, magnitude_unit hq (by omega)]
  have hunit : (0 : ℚ) < 2 ^ (u - 149 : ℤ) := by positivity
  exact mul_lt_mul_of_pos_right (by simp) hunit

theorem magnitude_pos {k : ℕ} : 0 < magnitude k ↔ 0 < k := by
  rw [← magnitude_strictMono.lt_iff_lt (b := k), magnitude_zero]

theorem magnitude_nonneg (k : ℕ) : 0 ≤ magnitude k :=
  magnitude_zero ▸ magnitude_strictMono.monotone k.zero_le

/-! ## A sign and magnitude bits as a word -/

/-- The word with the given sign and magnitude bits. -/
def packWord (neg : Bool) (k : ℕ) : Word := BitVec.ofNat 32 (if neg then k + 2 ^ 31 else k)

theorem packWord_toNat {neg : Bool} {k : ℕ} (hk : k < 2 ^ 31) :
    (packWord neg k).toNat = if neg then k + 2 ^ 31 else k := by
  rw [packWord, BitVec.toNat_ofNat, Nat.mod_eq_of_lt]
  split <;> omega

theorem packWord_mod {neg : Bool} {k : ℕ} (hk : k < 2 ^ 31) : (packWord neg k).toNat % 2 ^ 31 = k := by
  rw [packWord_toNat hk]; split <;> omega

@[simp] theorem fsign_packWord {neg : Bool} {k : ℕ} (hk : k < 2 ^ 31) : fsign (packWord neg k) = neg := by
  rw [fsign, BitVec.msb_eq_decide, packWord_toNat hk]
  cases neg <;> simp; omega

theorem toRat_packWord {neg : Bool} {k : ℕ} (hk : k < 2 ^ 31) :
    toRat (packWord neg k) = withSign neg (magnitude k) := by
  rw [toRat_eq_magnitude, fsign_packWord hk, packWord_mod hk]

/-! The infinities, as `finf_class` has them, for `simp`. -/

@[simp] theorem isInf_finf (neg : Bool) : isInf (finf neg) = true := (finf_class neg).1

@[simp] theorem isNaN_finf (neg : Bool) : isNaN (finf neg) = false := (finf_class neg).2.1

@[simp] theorem isZero_finf (neg : Bool) : isZero (finf neg) = false := (finf_class neg).2.2.1

@[simp] theorem fsign_finf (neg : Bool) : fsign (finf neg) = neg := (finf_class neg).2.2.2.1

@[simp] theorem fneg_finf (neg : Bool) : fneg (finf neg) = finf (!neg) := (finf_class neg).2.2.2.2

/-! ## The comparisons -/

theorem fkey_lt_iff (a b : Word) : fkey a < fkey b ↔ toRat a < toRat b := by
  rw [toRat_eq_magnitude, toRat_eq_magnitude, fkey, fkey]
  generalize a.toNat % 2 ^ 31 = i
  generalize b.toNat % 2 ^ 31 = j
  have hi := magnitude_nonneg i
  have hj := magnitude_nonneg j
  cases fsign a <;> cases fsign b
  case false.false => simp [magnitude_strictMono.lt_iff_lt]
  case true.true => simp [magnitude_strictMono.lt_iff_lt]
  case false.true =>
    simp only [withSign_false, withSign_true, Bool.false_eq_true, if_false, if_true]
    exact iff_of_false (by omega) (by linarith)
  case true.false =>
    simp only [withSign_false, withSign_true, Bool.false_eq_true, if_false, if_true]
    constructor
    · intro h
      rcases (by omega : 0 < i ∨ 0 < j) with h | h <;> linarith [magnitude_pos.2 h]
    · contrapose!
      intro h
      obtain ⟨rfl, rfl⟩ : i = 0 ∧ j = 0 := by omega
      simp [magnitude_zero]

theorem fkey_le_iff (a b : Word) : fkey a ≤ fkey b ↔ toRat a ≤ toRat b := by
  rw [← not_lt, fkey_lt_iff, not_lt]

theorem fkey_eq_iff (a b : Word) : fkey a = fkey b ↔ toRat a = toRat b := by
  rw [le_antisymm_iff, le_antisymm_iff, fkey_le_iff, fkey_le_iff]

/-! ## Rounding to the nearest magnitude -/

/-- `k` is the magnitude nearest to `x`, and the even one of two that are equally near. -/
structure IsNearestMagnitude (x : ℚ) (k : ℕ) : Prop where
  nearest : ∀ j, |magnitude k - x| ≤ |magnitude j - x|
  even : ∀ j, j ≠ k → |magnitude j - x| = |magnitude k - x| → k % 2 = 0

/-- Between two neighbours, the nearer one, or the even one of both, is nearest of all. -/
theorem IsNearestMagnitude.of_neighbours {x : ℚ} {k₀ k : ℕ} (hlo : magnitude k₀ ≤ x) (hhi : x < magnitude (k₀ + 1))
    (hk : k = k₀ ∧ x - magnitude k₀ ≤ magnitude (k₀ + 1) - x ∨
      k = k₀ + 1 ∧ magnitude (k₀ + 1) - x ≤ x - magnitude k₀)
    (heven : x - magnitude k₀ = magnitude (k₀ + 1) - x → k % 2 = 0) : IsNearestMagnitude x k := by
  have below : ∀ j, j < k₀ → magnitude j < magnitude k₀ := fun j hj => magnitude_strictMono hj
  have above : ∀ j, k₀ + 1 < j → magnitude (k₀ + 1) < magnitude j := fun j hj => magnitude_strictMono hj
  have dist_lo : |magnitude k₀ - x| = x - magnitude k₀ := by rw [abs_sub_comm, abs_of_nonneg (by linarith)]
  have dist_hi : |magnitude (k₀ + 1) - x| = magnitude (k₀ + 1) - x := abs_of_nonneg (by linarith)
  have dist_other : ∀ j, j ≠ k₀ → j ≠ k₀ + 1 →
      x - magnitude k₀ < |magnitude j - x| ∨ magnitude (k₀ + 1) - x < |magnitude j - x| := by
    intro j h₀ h₁
    rcases lt_or_gt_of_ne h₀ with h | h
    · left; linarith [below j h, neg_abs_le (magnitude j - x)]
    · right; linarith [above j (by omega), le_abs_self (magnitude j - x)]
  have hmin : |magnitude k - x| ≤ x - magnitude k₀ ∧ |magnitude k - x| ≤ magnitude (k₀ + 1) - x := by
    rcases hk with ⟨rfl, h⟩ | ⟨rfl, h⟩
    · exact ⟨dist_lo.le, dist_lo.trans_le h⟩
    · exact ⟨dist_hi.trans_le h, dist_hi.le⟩
  refine ⟨fun j => ?_, fun j hjk hj => ?_⟩
  · by_cases h₀ : j = k₀
    · rw [h₀, dist_lo]; exact hmin.1
    by_cases h₁ : j = k₀ + 1
    · rw [h₁, dist_hi]; exact hmin.2
    rcases dist_other j h₀ h₁ with h | h
    · exact hmin.1.trans h.le
    · exact hmin.2.trans h.le
  · apply heven
    rcases hk with ⟨rfl, -⟩ | ⟨rfl, -⟩
    · by_cases h₁ : j = k + 1
      · rw [← dist_lo, ← hj, h₁, dist_hi]
      · rcases dist_other j hjk h₁ with h | h <;> linarith [hmin.1, hmin.2]
    · by_cases h₀ : j = k₀
      · rw [← dist_hi, ← hj, h₀, dist_lo]
      · rcases dist_other j h₀ hjk with h | h <;> linarith [hmin.1, hmin.2]

/-- Scaling up by `z` where it is positive and down where it is negative is scaling by `2 ^ z`. -/
theorem two_pow_toNat_div (z : ℤ) : (2 : ℚ) ^ z.toNat / 2 ^ (-z).toNat = 2 ^ z := by
  rw [← zpow_natCast, ← zpow_natCast, ← zpow_sub₀ two_ne_zero]
  congr 1; omega

/-- The remainder decides the rounding of a quotient, and a tie goes to the even one. -/
theorem divNearestEven_cases (n d : ℕ) :
    (divNearestEven n d = n / d ∧ 2 * (n % d) ≤ d ∨ divNearestEven n d = n / d + 1 ∧ d ≤ 2 * (n % d)) ∧
    (2 * (n % d) = d → divNearestEven n d % 2 = 0) := by
  simp only [divNearestEven]
  split <;> omega

theorem two_pow_log2_le {n : ℕ} (hn : 0 < n) : (2 : ℚ) ^ (n.log2 : ℤ) ≤ n ∧ (n : ℚ) < 2 ^ (n.log2 + 1 : ℤ) := by
  constructor
  · exact_mod_cast Nat.log2_self_le hn.ne'
  · exact_mod_cast Nat.lt_log2_self (n := n)

/-- `ratLog2` is the floor of the binary logarithm. -/
theorem ratLog2_spec {n d : ℕ} (hn : 0 < n) (hd : 0 < d) :
    (2 : ℚ) ^ ratLog2 n d ≤ n / d ∧ (n / d : ℚ) < 2 ^ (ratLog2 n d + 1) := by
  obtain ⟨hnlo, hnhi⟩ := two_pow_log2_le hn
  obtain ⟨hdlo, hdhi⟩ := two_pow_log2_le hd
  have hd' : (0 : ℚ) < d := by exact_mod_cast hd
  set l : ℤ := (n.log2 : ℤ) - d.log2 with hl
  have test : d * 2 ^ l.toNat ≤ n * 2 ^ (-l).toNat ↔ (2 : ℚ) ^ l ≤ n / d := by
    rw [← two_pow_toNat_div, div_le_div_iff₀ (by positivity) hd', mul_comm ((2 : ℚ) ^ l.toNat)]
    exact_mod_cast Iff.rfl
  have upper : (n / d : ℚ) < 2 ^ (l + 1) := by
    rw [div_lt_iff₀ hd']
    calc (n : ℚ) < 2 ^ (n.log2 + 1 : ℤ) := hnhi
      _ = 2 ^ (l + 1) * 2 ^ (d.log2 : ℤ) := by rw [← zpow_add₀ two_ne_zero]; congr 1; omega
      _ ≤ 2 ^ (l + 1) * d := by gcongr
  have lower : (2 : ℚ) ^ (l - 1) ≤ n / d := by
    rw [le_div_iff₀ hd']
    calc (2 : ℚ) ^ (l - 1) * d ≤ 2 ^ (l - 1) * 2 ^ (d.log2 + 1 : ℤ) := by gcongr
      _ = 2 ^ (n.log2 : ℤ) := by rw [← zpow_add₀ two_ne_zero]; congr 1; omega
      _ ≤ n := hnlo
  simp only [ratLog2, ← hl]
  split
  next h => exact ⟨test.1 h, upper⟩
  next h => exact ⟨lower, by rw [sub_add_cancel]; exact not_le.1 (mt test.2 h)⟩

/-- The exponent of the unit in which `roundRat` rounds. -/
def roundUnit (n d : ℕ) (e : ℤ) : ℤ := max (ratLog2 n d + e - 23) (-149)

/-- The magnitude bits that `roundRat` computes. -/
def roundBits (n d : ℕ) (e : ℤ) : ℕ :=
  (roundUnit n d e + 149).toNat * 2 ^ 23 +
    divNearestEven (n * 2 ^ (e - roundUnit n d e).toNat) (d * 2 ^ (roundUnit n d e - e).toNat)

theorem roundRat_eq (neg : Bool) (n d : ℕ) (e : ℤ) :
    roundRat neg n d e =
      if 0x7F800000 ≤ roundBits n d e then finf neg else packWord neg (roundBits n d e) := rfl

/-- In its unit the number has at most 24 significant bits, and all 24 unless the unit is the subnormal one. -/
theorem roundUnit_spec {n d : ℕ} (hn : 0 < n) (hd : 0 < d) (e : ℤ) :
    (n / d : ℚ) * 2 ^ (e - roundUnit n d e) < 2 ^ 24 ∧
    (roundUnit n d e = -149 ∨ (2 : ℚ) ^ 23 ≤ n / d * 2 ^ (e - roundUnit n d e)) := by
  obtain ⟨hlo, hhi⟩ := ratLog2_spec hn hd
  have hunit : ratLog2 n d + e - 23 ≤ roundUnit n d e := le_max_left _ _
  constructor
  · calc (n / d : ℚ) * 2 ^ (e - roundUnit n d e)
        < 2 ^ (ratLog2 n d + 1) * 2 ^ (e - roundUnit n d e) := by gcongr
      _ = 2 ^ (ratLog2 n d + 1 + (e - roundUnit n d e)) := (zpow_add₀ two_ne_zero _ _).symm
      _ ≤ 2 ^ (24 : ℤ) := zpow_le_zpow_right₀ one_le_two (by omega)
      _ = 2 ^ 24 := by norm_num
  · rcases max_choice (ratLog2 n d + e - 23) (-149) with h | h
    · right
      calc (2 : ℚ) ^ 23 = 2 ^ (ratLog2 n d + (e - roundUnit n d e)) := by
            rw [roundUnit, h, show ratLog2 n d + (e - (ratLog2 n d + e - 23)) = (23 : ℕ) by omega, zpow_natCast]
        _ = 2 ^ ratLog2 n d * 2 ^ (e - roundUnit n d e) := zpow_add₀ two_ne_zero _ _
        _ ≤ n / d * 2 ^ (e - roundUnit n d e) := by gcongr
    · exact .inl h

/-- A quotient rounded in units of `2 ^ (u - 149)` gives the magnitude bits nearest to it, ties to even. -/
theorem divNearestEven_isNearest {u N D : ℕ} (hDpos : 0 < D) (hq : N / D < 2 ^ 24) (hu : u = 0 ∨ 2 ^ 23 ≤ N / D) :
    IsNearestMagnitude (N / D * 2 ^ (u - 149 : ℤ)) (u * 2 ^ 23 + divNearestEven N D) := by
  have hD : (0 : ℚ) < D := by exact_mod_cast hDpos
  have hrem : (N / D : ℚ) = (N / D : ℕ) + (N % D : ℕ) / D := by
    rw [div_eq_iff hD.ne', add_mul, div_mul_cancel₀ _ hD.ne']
    exact_mod_cast (Nat.div_add_mod' N D).symm
  set V : ℚ := 2 ^ (u - 149 : ℤ) / D with hV
  have hVpos : 0 < V := by positivity
  have below : N / D * 2 ^ (u - 149 : ℤ) - magnitude (u * 2 ^ 23 + N / D) = (N % D : ℕ) * V := by
    rw [magnitude_unit hq.le hu, hrem, hV]; ring
  have above : magnitude (u * 2 ^ 23 + N / D + 1) - N / D * 2 ^ (u - 149 : ℤ) = (D - (N % D : ℕ)) * V := by
    rw [add_assoc, magnitude_unit hq (by omega), hrem, hV]; push_cast; field_simp; ring
  have hr : ((N % D : ℕ) : ℚ) < D := by exact_mod_cast Nat.mod_lt N hDpos
  obtain ⟨hcases, htie⟩ := divNearestEven_cases N D
  refine .of_neighbours (k₀ := u * 2 ^ 23 + N / D) ?_ ?_ ?_ ?_
  · rw [← sub_nonneg, below]; positivity
  · rw [← sub_pos, above]; exact mul_pos (sub_pos.2 hr) hVpos
  · rw [below, above, mul_le_mul_iff_left₀ hVpos, mul_le_mul_iff_left₀ hVpos, le_sub_iff_add_le, sub_le_iff_le_add,
      ← two_mul]
    refine hcases.imp (fun ⟨hval, h⟩ => ⟨by rw [hval], by exact_mod_cast h⟩)
      fun ⟨hval, h⟩ => ⟨by rw [hval, add_assoc], by exact_mod_cast h⟩
  · rw [below, above, mul_left_inj' hVpos.ne', eq_sub_iff_add_eq, ← two_mul]
    intro h
    have := htie (by exact_mod_cast h)
    omega

/-- The magnitude bits of `roundRat` are nearest to the exact number, ties to even. -/
theorem roundBits_isNearest {n d : ℕ} (hn : 0 < n) (hd : 0 < d) (e : ℤ) :
    IsNearestMagnitude (n / d * 2 ^ e) (roundBits n d e) := by
  obtain ⟨hlt, hfull⟩ := roundUnit_spec hn hd e
  have hbase : -149 ≤ roundUnit n d e := le_max_right _ _
  unfold roundBits
  generalize roundUnit n d e = t at *
  obtain ⟨u, rfl⟩ : ∃ u : ℕ, t = u - 149 := ⟨(t + 149).toNat, by omega⟩
  rw [show ((u : ℤ) - 149 + 149).toNat = u by omega]
  set N := n * 2 ^ (e - (u - 149)).toNat with hN
  set D := d * 2 ^ ((u : ℤ) - 149 - e).toNat with hD
  have hDpos : 0 < D := by positivity
  have hquot : (n / d : ℚ) * 2 ^ (e - (u - 149)) = N / D := by
    rw [← two_pow_toNat_div, neg_sub, hN, hD]; push_cast; rw [div_mul_div_comm]
  have hvalue : (n / d : ℚ) * 2 ^ e = N / D * 2 ^ (u - 149 : ℤ) := by
    rw [← hquot, mul_assoc, ← zpow_add₀ two_ne_zero, sub_add_cancel]
  have hDpos' : (0 : ℚ) < D := by exact_mod_cast hDpos
  rw [hquot, div_lt_iff₀ hDpos'] at hlt
  rw [hquot, le_div_iff₀ hDpos'] at hfull
  rw [hvalue]
  refine divNearestEven_isNearest hDpos (Nat.div_lt_of_lt_mul (by rw [mul_comm]; exact_mod_cast hlt)) ?_
  exact hfull.imp (fun h => by omega) fun h => (Nat.le_div_iff_mul_le hDpos).2 (by exact_mod_cast h)

/-! ## The rounded word -/

/-- The largest finite magnitude and the one beyond it, around the bound of overflow. -/
theorem magnitude_at_overflow : magnitude (0x7F800000 - 1) = overflowBound - 2 ^ 103 ∧
    magnitude 0x7F800000 = overflowBound + 2 ^ 103 := by
  constructor
  · rw [show 0x7F800000 - 1 = 253 * 2 ^ 23 + (2 ^ 24 - 1) by norm_num, magnitude_unit (by norm_num) (by norm_num)]
    norm_num [overflowBound]
  · rw [show 0x7F800000 = 253 * 2 ^ 23 + 2 ^ 24 by norm_num, magnitude_unit (by norm_num) (by norm_num)]
    norm_num [overflowBound]

/-- The nearest magnitude is a finite one exactly below the bound of overflow. -/
theorem IsNearestMagnitude.lt_iff {x : ℚ} {k : ℕ} (h : IsNearestMagnitude x k) :
    k < 0x7F800000 ↔ x < overflowBound := by
  obtain ⟨hmax, hinf⟩ := magnitude_at_overflow
  constructor <;> intro hlt <;> by_contra! hge
  · have hk : magnitude k ≤ magnitude (0x7F800000 - 1) := magnitude_strictMono.monotone (by omega)
    have hnear := h.nearest 0x7F800000
    have hx : x ≤ overflowBound := by
      cases abs_cases (magnitude k - x) <;> cases abs_cases (magnitude 0x7F800000 - x) <;> linarith
    obtain rfl := le_antisymm hx hge
    have hmag : magnitude k = magnitude (0x7F800000 - 1) := by
      refine le_antisymm hk ?_
      rw [hinf, add_sub_cancel_left, abs_of_pos (by norm_num : (0 : ℚ) < 2 ^ 103)] at hnear
      linarith [neg_le_of_abs_le hnear]
    have heven := h.even 0x7F800000 (by omega) (by rw [hmag, hmax, hinf]; norm_num)
    rw [magnitude_strictMono.injective hmag] at heven
    norm_num at heven
  · have hk : magnitude 0x7F800000 ≤ magnitude k := magnitude_strictMono.monotone hge
    have hnear := h.nearest (0x7F800000 - 1)
    cases abs_cases (magnitude k - x) <;> cases abs_cases (magnitude (0x7F800000 - 1) - x) <;> linarith

theorem abs_withSign_sub (neg : Bool) (x y : ℚ) : |withSign neg x - withSign neg y| = |x - y| := by
  cases neg
  · rfl
  · rw [withSign_true, withSign_true, neg_sub_neg, abs_sub_comm]

theorem abs_toRat (c : Word) : |toRat c| = magnitude (c.toNat % 2 ^ 31) := by
  rw [toRat_eq_magnitude, abs_withSign, abs_of_nonneg (magnitude_nonneg _)]

/-- No word is nearer to a number than its magnitude is to the number's. -/
theorem magnitude_dist_le (neg : Bool) {x : ℚ} (hx : 0 < x) (c : Word) :
    |magnitude (c.toNat % 2 ^ 31) - x| ≤ |toRat c - withSign neg x| := by
  simpa [abs_toRat, abs_of_pos hx] using abs_abs_sub_abs_le (toRat c) (withSign neg x)

/-- Opposite numbers are equally far from zero only. -/
theorem eq_of_abs_eq_of_dist_eq {a c x : ℚ} (hx : x ≠ 0) (habs : |c| = |a|) (hdist : |c - x| = |a - x|) : c = a := by
  rcases abs_eq_abs.1 habs with hsame | hflip
  · exact hsame
  · rcases abs_eq_abs.1 hdist with h | h
    · linarith
    · exact absurd (by linarith) hx

/-- The nearest magnitude with the sign of the number, or an infinity beyond the finite ones, is the number rounded. -/
theorem IsNearestMagnitude.roundsTo (neg : Bool) {x : ℚ} {k : ℕ} (hx : 0 < x) (h : IsNearestMagnitude x k) :
    RoundsTo (withSign neg x) (if 0x7F800000 ≤ k then finf neg else packWord neg k) := by
  have habs : |withSign neg x| = x := by rw [abs_withSign, abs_of_pos hx]
  have hneg : decide (withSign neg x < 0) = neg := by simp [withSign_lt_zero hx]
  have hsign : fsign (if 0x7F800000 ≤ k then finf neg else packWord neg k) = neg := by
    split
    · exact fsign_finf neg
    · exact fsign_packWord (by omega)
  by_cases hk : k < 0x7F800000
  case neg =>
    have hover : overflowBound ≤ |withSign neg x| := by rw [habs]; exact not_lt.1 (mt h.lt_iff.2 hk)
    exact ⟨fun _ => by rw [if_pos (not_lt.1 hk), hneg], fun hlt => absurd hlt hover.not_gt,
      fun hlt => absurd hlt hover.not_gt, fun hlt => absurd hlt hover.not_gt, fun _ => by rw [hsign, hneg]⟩
  have hk31 : k < 2 ^ 31 := by omega
  rw [if_neg (not_le.2 hk)] at hsign ⊢
  have hdist : |toRat (packWord neg k) - withSign neg x| = |magnitude k - x| := by
    rw [toRat_packWord hk31, abs_withSign_sub]
  refine ⟨fun hover => ?_, fun _ => ?_, fun _ c _ => ?_, fun _ c _ htie hne => ?_, fun _ => by rw [hsign, hneg]⟩
  · exact absurd (h.lt_iff.1 hk) (by rw [← habs]; exact hover.not_gt)
  · rwa [isFinite_iff_lt, packWord_mod hk31]
  · rw [hdist]; exact (h.nearest _).trans (magnitude_dist_le neg hx c)
  · have heq : |magnitude (c.toNat % 2 ^ 31) - x| = |magnitude k - x| :=
      le_antisymm ((magnitude_dist_le neg hx c).trans (htie.trans hdist).le) (h.nearest _)
    have heven : k % 2 = 0 := by
      refine h.even _ (fun hck => hne ?_) heq
      refine eq_of_abs_eq_of_dist_eq (mt withSign_eq_zero.1 hx.ne') ?_ htie
      rw [abs_toRat, abs_toRat (packWord neg k), packWord_mod hk31, hck]
    rw [ffrac_eq_mod, packWord_mod hk31]; omega

/-- `roundRat` rounds the exact number correctly (R9). -/
theorem roundRat_roundsTo (neg : Bool) {n d : ℕ} (hn : 0 < n) (hd : 0 < d) (e : ℤ) :
    RoundsTo (withSign neg (n / d * 2 ^ e)) (roundRat neg n d e) := by
  rw [roundRat_eq]
  exact (roundBits_isNearest hn hd e).roundsTo neg (by positivity)

theorem fsign_roundRat (neg : Bool) {n d : ℕ} (hn : 0 < n) (hd : 0 < d) (e : ℤ) :
    fsign (roundRat neg n d e) = neg := by
  have hpos : 0 < (n / d * 2 ^ e : ℚ) := by positivity
  rw [(roundRat_roundsTo neg hn hd e).sign (mt withSign_eq_zero.1 hpos.ne')]
  simp [withSign_lt_zero hpos]

theorem fzero_eq_packWord (neg : Bool) : fzero neg = packWord neg 0 := by cases neg <;> rfl

@[simp] theorem fsign_fzero (neg : Bool) : fsign (fzero neg) = neg := by cases neg <;> rfl

theorem toRat_fzero (neg : Bool) : toRat (fzero neg) = 0 := by
  rw [fzero_eq_packWord, toRat_packWord (by norm_num), magnitude_zero, withSign_eq_zero]

/-- A zero of either sign is zero rounded. -/
theorem fzero_roundsTo (neg : Bool) : RoundsTo 0 (fzero neg) := by
  refine ⟨fun h => ?_, fun _ => ?_, fun _ c _ => ?_, fun _ c _ htie hne => ?_, fun h => absurd rfl h⟩
  · norm_num [overflowBound] at h
  · cases neg <;> rfl
  · simp [toRat_fzero]
  · simp [toRat_fzero] at htie hne; exact absurd htie hne

/-- `roundInt` rounds the exact number correctly (R9). -/
theorem roundInt_roundsTo (zneg : Bool) (m e : ℤ) : RoundsTo (m * 2 ^ e) (roundInt zneg m e) := by
  unfold roundInt
  split
  next hm => simpa [hm] using fzero_roundsTo zneg
  next hm =>
    have hround := roundRat_roundsTo (decide (m < 0)) (Int.natAbs_pos.2 hm) one_pos e
    rwa [Nat.cast_one, div_one, withSign_mul_right, withSign_natAbs] at hround

/-! ## The arithmetic of R9 -/

theorem isNaN_of_isFinite {x : Word} (h : isFinite x = true) : isNaN x = false := ((isFinite_iff x).1 h).1

theorem isInf_of_isFinite {x : Word} (h : isFinite x = true) : isInf x = false := ((isFinite_iff x).1 h).2

theorem fsign_fneg (x : Word) : fsign (fneg x) = !fsign x := by
  rw [fsign, fneg, BitVec.msb_xor, show (0x80000000 : Word).msb = true from rfl, Bool.xor_true, fsign]

theorem fneg_mod (x : Word) : (fneg x).toNat % 2 ^ 31 = x.toNat % 2 ^ 31 := by
  rw [fneg, BitVec.toNat_xor, Nat.xor_mod_two_pow]
  simp

theorem toRat_fneg (x : Word) : toRat (fneg x) = -toRat x := by
  rw [toRat_eq_magnitude, toRat_eq_magnitude, fsign_fneg, fneg_mod]
  cases fsign x <;> simp

theorem isFinite_fneg (x : Word) : isFinite (fneg x) = isFinite x := by
  rw [Bool.eq_iff_iff, isFinite_iff_lt, isFinite_iff_lt, fneg_mod]

/-- The signed significand in units of a smaller scale. -/
theorem fsigned_shift {x : Word} {e : ℤ} (he : e ≤ fscale x) :
    ((fsigned x * 2 ^ (fscale x - e).toNat : ℤ) : ℚ) * 2 ^ e = toRat x := by
  push_cast
  rw [toRat, mul_assoc, ← zpow_natCast, ← zpow_add₀ two_ne_zero]
  congr 2; omega

/-- The exact sum of two finite words in units of the smaller scale. -/
def alignedSum (a b : Word) : ℤ :=
  fsigned a * 2 ^ (fscale a - min (fscale a) (fscale b)).toNat +
    fsigned b * 2 ^ (fscale b - min (fscale a) (fscale b)).toNat

theorem alignedSum_value (a b : Word) :
    (alignedSum a b : ℚ) * 2 ^ min (fscale a) (fscale b) = toRat a + toRat b := by
  rw [alignedSum, Int.cast_add, add_mul, fsigned_shift (min_le_left _ _), fsigned_shift (min_le_right _ _)]

theorem fadd_of_finite {a b : Word} (ha : isFinite a = true) (hb : isFinite b = true) :
    fadd a b = roundInt (fsign a && fsign b) (alignedSum a b) (min (fscale a) (fscale b)) := by
  simp [fadd, alignedSum, isNaN_of_isFinite ha, isNaN_of_isFinite hb, isInf_of_isFinite ha, isInf_of_isFinite hb]

theorem fadd_roundsTo {a b : Word} (ha : isFinite a = true) (hb : isFinite b = true) :
    RoundsTo (toRat a + toRat b) (fadd a b) := by
  rw [fadd_of_finite ha hb, ← alignedSum_value]
  exact roundInt_roundsTo _ _ _

theorem fadd_of_zero_sum {a b : Word} (ha : isFinite a = true) (hb : isFinite b = true)
    (h : toRat a + toRat b = 0) : fadd a b = fzero (fsign a && fsign b) := by
  have hsum : alignedSum a b = 0 := by simpa [zpow_ne_zero, h] using alignedSum_value a b
  rw [fadd_of_finite ha hb, roundInt, if_pos hsum]

/-- Settles O40: the sum is exact in units of the smaller scale, and `roundInt` rounds it correctly. -/
theorem additionRoundsCorrectly : Obligations.AdditionRoundsCorrectly := by
  intro a b ha hb
  refine ⟨fadd_roundsTo ha hb, ?_, fadd_of_zero_sum ha hb⟩
  rw [sub_eq_add_neg, ← toRat_fneg]
  exact fadd_roundsTo ha ((isFinite_fneg b).trans hb)

theorem fsig_pos {x : Word} (hx : isZero x = false) : 0 < fsig x :=
  Nat.pos_of_ne_zero fun h => by simp [(fsig_eq_zero_iff x).1 h] at hx

theorem fmul_of_zero {a b : Word} (ha : isFinite a = true) (hb : isFinite b = true)
    (hz : isZero a = true ∨ isZero b = true) : fmul a b = fzero (fsign a != fsign b) := by
  simp [fmul, isNaN_of_isFinite ha, isNaN_of_isFinite hb, isInf_of_isFinite ha, isInf_of_isFinite hb, hz]

theorem fmul_of_nonzero {a b : Word} (ha : isFinite a = true) (hb : isFinite b = true)
    (hza : isZero a = false) (hzb : isZero b = false) :
    fmul a b = roundRat (fsign a != fsign b) (fsig a * fsig b) 1 (fscale a + fscale b) := by
  simp [fmul, isNaN_of_isFinite ha, isNaN_of_isFinite hb, isInf_of_isFinite ha, isInf_of_isFinite hb, hza, hzb]

/-- Settles O41: the significands multiply exactly, and `roundRat` rounds the product correctly. -/
theorem multiplicationRoundsCorrectly : Obligations.MultiplicationRoundsCorrectly := by
  intro a b ha hb
  by_cases hz : isZero a = true ∨ isZero b = true
  · rw [fmul_of_zero ha hb hz, mul_eq_zero.2 (hz.imp (toRat_eq_zero_iff a).2 (toRat_eq_zero_iff b).2)]
    exact ⟨fzero_roundsTo _, fsign_fzero _⟩
  · obtain ⟨hza, hzb⟩ : isZero a = false ∧ isZero b = false := by simpa using hz
    have hpos : 0 < fsig a * fsig b := Nat.mul_pos (fsig_pos hza) (fsig_pos hzb)
    rw [fmul_of_nonzero ha hb hza hzb, toRat_eq_withSign, toRat_eq_withSign, withSign_mul]
    refine ⟨?_, fsign_roundRat _ hpos one_pos _⟩
    convert roundRat_roundsTo _ hpos one_pos _ using 2
    rw [zpow_add₀ two_ne_zero]; push_cast; ring

theorem fdiv_of_zero {a b : Word} (ha : isFinite a = true) (hb : isFinite b = true)
    (hza : isZero a = true) (hzb : isZero b = false) : fdiv a b = fzero (fsign a != fsign b) := by
  simp [fdiv, isNaN_of_isFinite ha, isNaN_of_isFinite hb, isInf_of_isFinite ha, isInf_of_isFinite hb, hza, hzb]

theorem fdiv_of_nonzero {a b : Word} (ha : isFinite a = true) (hb : isFinite b = true)
    (hza : isZero a = false) (hzb : isZero b = false) :
    fdiv a b = roundRat (fsign a != fsign b) (fsig a) (fsig b) (fscale a - fscale b) := by
  simp [fdiv, isNaN_of_isFinite ha, isNaN_of_isFinite hb, isInf_of_isFinite ha, isInf_of_isFinite hb, hza, hzb]

/-- Settles O42: the significands divide exactly as a fraction, and `roundRat` rounds the quotient correctly. -/
theorem divisionRoundsCorrectly : Obligations.DivisionRoundsCorrectly := by
  intro a b ha hb hzb
  by_cases hza : isZero a = true
  · rw [fdiv_of_zero ha hb hza hzb, (toRat_eq_zero_iff a).2 hza, zero_div]
    exact ⟨fzero_roundsTo _, fsign_fzero _⟩
  · rw [Bool.not_eq_true] at hza
    rw [fdiv_of_nonzero ha hb hza hzb, toRat_eq_withSign, toRat_eq_withSign, withSign_div]
    refine ⟨?_, fsign_roundRat _ (fsig_pos hza) (fsig_pos hzb) _⟩
    convert roundRat_roundsTo _ (fsig_pos hza) (fsig_pos hzb) _ using 2
    rw [zpow_sub₀ two_ne_zero, mul_div_mul_comm]

/-! ## NaN and the infinities -/

theorem isFinite_packWord {neg : Bool} {k : ℕ} (hk : k < 0x7F800000) : isFinite (packWord neg k) = true := by
  rwa [isFinite_iff_lt, packWord_mod (by omega)]

@[simp] theorem isNaN_fzero (neg : Bool) : isNaN (fzero neg) = false := by cases neg <;> rfl

theorem isNaN_fneg (x : Word) : isNaN (fneg x) = isNaN x := by
  simp only [isNaN, fexp_eq_div, ffrac_eq_mod, fneg_mod]

@[simp] theorem isNaN_roundRat (neg : Bool) (n d : ℕ) (e : ℤ) : isNaN (roundRat neg n d e) = false := by
  rw [roundRat_eq]
  split
  next => exact isNaN_finf neg
  next h => exact isNaN_of_isFinite (isFinite_packWord (not_le.1 h))

@[simp] theorem isNaN_roundInt (zneg : Bool) (m e : ℤ) : isNaN (roundInt zneg m e) = false := by
  unfold roundInt
  split
  · exact isNaN_fzero zneg
  · exact isNaN_roundRat _ _ _ _

/-- The word is no NaN but the canonical one. -/
def OnlyCanonicalNaN (w : Word) : Prop := isNaN w = true → w = qNaN

theorem onlyCanonicalNaN_qNaN : OnlyCanonicalNaN qNaN := fun _ => rfl

theorem onlyCanonicalNaN_of_not {w : Word} (h : isNaN w = false) : OnlyCanonicalNaN w :=
  fun h' => absurd h' (by simp [h])

theorem onlyCanonicalNaN_fadd (a b : Word) : OnlyCanonicalNaN (fadd a b) := by
  unfold fadd
  split
  next => exact onlyCanonicalNaN_qNaN
  next hnan =>
    obtain ⟨ha, hb⟩ : isNaN a = false ∧ isNaN b = false := by simpa using hnan
    split
    next =>
      split
      · exact onlyCanonicalNaN_qNaN
      · exact onlyCanonicalNaN_of_not ha
    next =>
      split
      · exact onlyCanonicalNaN_of_not hb
      · exact onlyCanonicalNaN_of_not (isNaN_roundInt _ _ _)

theorem onlyCanonicalNaN_fmul (a b : Word) : OnlyCanonicalNaN (fmul a b) := by
  unfold fmul
  split_ifs
  · exact onlyCanonicalNaN_qNaN
  · exact onlyCanonicalNaN_qNaN
  · exact onlyCanonicalNaN_of_not (isNaN_finf _)
  · exact onlyCanonicalNaN_of_not (isNaN_fzero _)
  · exact onlyCanonicalNaN_of_not (isNaN_roundRat _ _ _ _)

theorem onlyCanonicalNaN_fdiv (a b : Word) : OnlyCanonicalNaN (fdiv a b) := by
  unfold fdiv
  split_ifs
  · exact onlyCanonicalNaN_qNaN
  · exact onlyCanonicalNaN_qNaN
  · exact onlyCanonicalNaN_of_not (isNaN_finf _)
  · exact onlyCanonicalNaN_of_not (isNaN_fzero _)
  · exact onlyCanonicalNaN_qNaN
  · exact onlyCanonicalNaN_of_not (isNaN_finf _)
  · exact onlyCanonicalNaN_of_not (isNaN_fzero _)
  · exact onlyCanonicalNaN_of_not (isNaN_roundRat _ _ _ _)

/-- Settles O44: every branch of an operation is the canonical NaN, an operand that is no NaN, a signed zero or
infinity, or a rounded number. -/
theorem naNResultsAreCanonical : Obligations.NaNResultsAreCanonical := fun a b =>
  ⟨onlyCanonicalNaN_fadd a b, onlyCanonicalNaN_fadd a (fneg b), onlyCanonicalNaN_fmul a b, onlyCanonicalNaN_fdiv a b⟩

/-! The operations on a NaN. -/

theorem fadd_of_isNaN {a b : Word} (h : isNaN a = true ∨ isNaN b = true) : fadd a b = qNaN := by
  simp [fadd, h]

theorem fsub_of_isNaN {a b : Word} (h : isNaN a = true ∨ isNaN b = true) : fsub a b = qNaN :=
  fadd_of_isNaN (h.imp_right (isNaN_fneg b).trans)

theorem fmul_of_isNaN {a b : Word} (h : isNaN a = true ∨ isNaN b = true) : fmul a b = qNaN := by
  simp [fmul, h]

theorem fdiv_of_isNaN {a b : Word} (h : isNaN a = true ∨ isNaN b = true) : fdiv a b = qNaN := by
  simp [fdiv, h]

/-! The operations on an infinity. -/

theorem fadd_finf_left {neg : Bool} {y : Word} (hy : isFinite y = true) : fadd (finf neg) y = finf neg := by
  simp [fadd, isNaN_of_isFinite hy, isInf_of_isFinite hy]

theorem fadd_finf_right {neg : Bool} {y : Word} (hy : isFinite y = true) : fadd y (finf neg) = finf neg := by
  simp [fadd, isNaN_of_isFinite hy, isInf_of_isFinite hy]

theorem fadd_finf_finf (p q : Bool) : fadd (finf p) (finf q) = if p = q then finf p else qNaN := by
  by_cases h : p = q <;> simp [fadd, h]

theorem fsub_finf_left {neg : Bool} {y : Word} (hy : isFinite y = true) : fsub (finf neg) y = finf neg :=
  fadd_finf_left ((isFinite_fneg y).trans hy)

theorem fsub_finf_right {neg : Bool} {y : Word} (hy : isFinite y = true) : fsub y (finf neg) = finf (!neg) := by
  rw [fsub, fneg_finf, fadd_finf_right hy]

theorem fsub_finf_finf (p q : Bool) : fsub (finf p) (finf q) = if p = !q then finf p else qNaN := by
  rw [fsub, fneg_finf, fadd_finf_finf]

theorem fmul_finf_left {neg : Bool} {y : Word} (hy : isNaN y = false) (hz : isZero y = false) :
    fmul (finf neg) y = finf (neg != fsign y) := by
  simp [fmul, hy, hz]

theorem fmul_finf_right {neg : Bool} {y : Word} (hy : isNaN y = false) (hz : isZero y = false) :
    fmul y (finf neg) = finf (neg != fsign y) := by
  simp [fmul, hy, hz, bne_comm]

theorem fmul_isInf_isZero {x z : Word} (hx : isInf x = true) (hz : isZero z = true) :
    fmul x z = qNaN ∧ fmul z x = qNaN := by
  simp [fmul, hx, hz]

theorem fdiv_finf_left {neg : Bool} {y : Word} (hy : isFinite y = true) :
    fdiv (finf neg) y = finf (neg != fsign y) := by
  simp [fdiv, isNaN_of_isFinite hy, isInf_of_isFinite hy]

theorem fdiv_finf_right {neg : Bool} {y : Word} (hy : isFinite y = true) :
    fdiv y (finf neg) = fzero (neg != fsign y) := by
  simp [fdiv, isNaN_of_isFinite hy, isInf_of_isFinite hy, bne_comm]

theorem fdiv_isInf_isInf {x y : Word} (hx : isInf x = true) (hy : isInf y = true) : fdiv x y = qNaN := by
  simp [fdiv, hx, hy]

/-! Division by a zero. -/

theorem fdiv_of_zero_divisor {x z : Word} (hx : isFinite x = true) (hz : isZero z = true) :
    fdiv x z = if isZero x then qNaN else finf (fsign x != fsign z) := by
  have hzf := isFinite_of_isZero hz
  simp [fdiv, hz, isNaN_of_isFinite hx, isInf_of_isFinite hx, isNaN_of_isFinite hzf, isInf_of_isFinite hzf]

/-! The OPEN functions (R6). -/

theorem numSin_of_undefined {x : Word} (h : isNaN x = true ∨ isInf x = true) : numSin x = qNaN := by
  simp [numSin, h]

theorem numTan_of_undefined {x : Word} (h : isNaN x = true ∨ isInf x = true) : numTan x = qNaN := by
  simp [numTan, h]

/-- Settles O43: each clause is the branch of the operation that its operands select. -/
theorem specialValueRules : Obligations.SpecialValueRules := by
  refine ⟨fun x z hx hx0 hz => ?_, fun y z hy hz => ?_, fun x y hx hy => fdiv_isInf_isInf hx hy, fun neg => ?_,
    fun x z hx hz => fmul_isInf_isZero hx hz, fun a b h => ?_, ⟨rfl, rfl⟩, fun neg y hy => ?_, fun neg => ?_,
    fun neg y hy hz => ⟨fmul_finf_left hy hz, fmul_finf_right hy hz⟩,
    fun neg y hy => ⟨fdiv_finf_left hy, fdiv_finf_right hy⟩, ⟨rfl, rfl, rfl⟩,
    fun x h => ⟨numSin_of_undefined h, numTan_of_undefined h⟩⟩
  · simp [fdiv_of_zero_divisor hx hz, hx0]
  · rw [fdiv_of_zero_divisor (isFinite_of_isZero hy) hz, if_pos hy]; rfl
  · simp [fsub_finf_finf, qNaN]
  · exact ⟨fadd_of_isNaN h, fsub_of_isNaN h, fmul_of_isNaN h, fdiv_of_isNaN h⟩
  · exact ⟨fadd_finf_left hy, fadd_finf_right hy, fsub_finf_left hy, fsub_finf_right hy⟩
  · simp [fadd_finf_finf, fsub_finf_finf, qNaN]

/-! ## The order of the numbers and the infinities -/

theorem flt_of_finite {a b : Word} (ha : isFinite a = true) (hb : isFinite b = true) :
    flt a b = true ↔ toRat a < toRat b := by
  rw [flt_iff, fkey_lt_iff]; simp [isNaN_of_isFinite ha, isNaN_of_isFinite hb]

theorem fge_of_finite {a b : Word} (ha : isFinite a = true) (hb : isFinite b = true) :
    fge a b = true ↔ toRat b ≤ toRat a := by
  rw [fge_iff, fkey_le_iff]; simp [isNaN_of_isFinite ha, isNaN_of_isFinite hb]

theorem feq_of_finite {a b : Word} (ha : isFinite a = true) (hb : isFinite b = true) :
    feq a b = true ↔ toRat a = toRat b := by
  rw [feq_iff, fkey_eq_iff]; simp [isNaN_of_isFinite ha, isNaN_of_isFinite hb]

/-- The keys of the infinities enclose those of the finite words. -/
theorem fkey_between_finf {a : Word} (ha : isFinite a = true) :
    fkey (finf true) < fkey a ∧ fkey a < fkey (finf false) := by
  have hlt := (isFinite_iff_lt a).1 ha
  have hneg : fkey (finf true) = -0x7F800000 := by decide
  have hpos : fkey (finf false) = 0x7F800000 := by decide
  rw [hneg, hpos, fkey]
  split <;> omega

/-- What the four comparisons answer, by the order of the keys. -/
theorem comparisons_of_lt {a b : Word} (ha : isNaN a = false) (hb : isNaN b = false) (h : fkey a < fkey b) :
    (flt a b = true ∧ fgt a b = false ∧ fge a b = false ∧ feq a b = false) ∧
    (flt b a = false ∧ fgt b a = true ∧ fge b a = true ∧ feq b a = false) := by
  simp [flt, fgt, fge, feq, ha, hb, h, h.le, h.ne, h.ne']

/-- Settles O45: the key of a word ascends with its number, and the infinities have the outermost keys. -/
theorem comparisonsOrderTheNumbers : Obligations.ComparisonsOrderTheNumbers := by
  refine ⟨fun a b ha hb => ?_, fun a ha => ?_, by decide, fun a b h => ?_⟩
  · exact ⟨flt_of_finite ha hb, flt_of_finite hb ha, fge_of_finite ha hb, feq_of_finite ha hb⟩
  · obtain ⟨hlo, hhi⟩ := fkey_between_finf ha
    have hnan := isNaN_of_isFinite ha
    obtain ⟨hbelow, habove⟩ := comparisons_of_lt hnan (isNaN_finf false) hhi
    obtain ⟨hbelow', habove'⟩ := comparisons_of_lt (isNaN_finf true) hnan hlo
    exact ⟨hbelow, habove, habove', hbelow'⟩
  · rcases h with h | h <;> simp [flt, fgt, fge, feq, h]

/-! ## Conversions -/

/-- A number that is a finite word's is rounded to itself. -/
theorem RoundsTo.exact {c r : Word} (hc : isFinite c = true) (h : RoundsTo (toRat c) r) :
    isFinite r = true ∧ toRat r = toRat c := by
  have hlt : |toRat c| < overflowBound := by
    have hmax : magnitude (c.toNat % 2 ^ 31) ≤ magnitude (0x7F800000 - 1) :=
      magnitude_strictMono.monotone (Nat.le_sub_one_of_lt ((isFinite_iff_lt c).1 hc))
    rw [abs_toRat]
    linarith [magnitude_at_overflow.1]
  have hdist := h.nearest hlt c hc
  rw [sub_self, abs_zero, abs_nonpos_iff, sub_eq_zero] at hdist
  exact ⟨h.finite hlt, hdist⟩

/-- A natural up to 2^24 is a significand, shifted until it is a full one. -/
theorem exists_magnitude_eq {m : ℕ} (hm : m ≤ 2 ^ 24) : ∃ k < 0x7F800000, magnitude k = m := by
  rcases m.eq_zero_or_pos with rfl | hpos
  · exact ⟨0, by norm_num, by simp [magnitude_zero]⟩
  obtain ⟨s, hs, hlo, hhi⟩ : ∃ s ≤ 23, 2 ^ 23 ≤ m * 2 ^ s ∧ m * 2 ^ s ≤ 2 ^ 24 := by
    rcases hm.eq_or_lt with rfl | hlt
    · exact ⟨0, by norm_num⟩
    have hlog : m.log2 ≤ 23 := Nat.lt_succ_iff.1 ((Nat.log2_lt hpos.ne').2 hlt)
    have hsplit : 2 ^ m.log2 * 2 ^ (23 - m.log2) = 2 ^ 23 := by rw [← pow_add]; congr 1; omega
    refine ⟨23 - m.log2, by omega, ?_, ?_⟩
    · calc 2 ^ 23 = 2 ^ m.log2 * 2 ^ (23 - m.log2) := hsplit.symm
        _ ≤ m * 2 ^ (23 - m.log2) := by gcongr; exact Nat.log2_self_le hpos.ne'
    · calc m * 2 ^ (23 - m.log2) ≤ 2 ^ (m.log2 + 1) * 2 ^ (23 - m.log2) := by
            gcongr; exact Nat.lt_log2_self.le
        _ = 2 ^ 24 := by rw [pow_succ, mul_right_comm, hsplit]; norm_num
  refine ⟨(149 - s) * 2 ^ 23 + m * 2 ^ s, by omega, ?_⟩
  rw [magnitude_unit hhi (.inr hlo), Nat.cast_sub (by omega)]
  push_cast
  rw [mul_assoc, ← zpow_natCast, ← zpow_add₀ two_ne_zero]
  simp

theorem exists_word_eq_int {n : ℤ} (hn : n.natAbs ≤ 2 ^ 24) : ∃ c, isFinite c = true ∧ toRat c = n := by
  obtain ⟨k, hk, hmag⟩ := exists_magnitude_eq hn
  refine ⟨packWord (decide (n < 0)) k, isFinite_packWord hk, ?_⟩
  rw [toRat_packWord (by omega), hmag, withSign_natAbs]

/-- Settles O46: such an integer is a finite word's number, and that rounds to itself. -/
theorem smallIntegersConvertExactly : Obligations.SmallIntegersConvertExactly := by
  intro n hn
  obtain ⟨c, hc, hcn⟩ := exists_word_eq_int hn
  have hround : RoundsTo (toRat c) (itof n) := by simpa [hcn, itof] using roundInt_roundsTo false n 0
  rw [← hcn]
  exact hround.exact hc

/-- Settles O47: the shifted significand is divided by a power of two with the remainder dropped, which is the floor of
the magnitude, and the sign is put to it. -/
theorem truncationIsTowardZero : Obligations.TruncationIsTowardZero := by
  intro v _
  have hvalue : (fsig v : ℚ) * 2 ^ fscale v =
      (fsig v * 2 ^ (fscale v).toNat : ℕ) / (2 ^ (-fscale v).toNat : ℕ) := by
    push_cast
    rw [← two_pow_toNat_div, mul_div_assoc]
  have hfloor : ⌊(fsig v : ℚ) * 2 ^ fscale v⌋ = (fsig v * 2 ^ (fscale v).toNat / 2 ^ (-fscale v).toNat : ℕ) := by
    rw [hvalue]; exact Rat.floor_natCast_div_natCast _ _
  have hnonneg : 0 ≤ (fsig v : ℚ) * 2 ^ fscale v := by positivity
  rw [toRat_eq_withSign, ftoiTrunc]
  generalize (fsig v : ℚ) * 2 ^ fscale v = x at *
  cases fsign v
  case false => simp [hnonneg, hfloor]
  case true =>
    rcases hnonneg.eq_or_lt with rfl | hpos
    · simpa using hfloor.symm
    · rw [withSign_true, if_neg (not_le.2 (neg_neg_of_pos hpos)), Int.ceil_neg, hfloor]; rfl

/-! ## clamp01 -/

theorem fge_of_flt_eq_false {a b : Word} (ha : isNaN a = false) (hb : isNaN b = false) (h : flt a b = false) :
    fge a b = true := by
  rw [fge_iff]
  refine ⟨ha, hb, not_lt.1 fun hlt => ?_⟩
  simp [(flt_iff a b).2 ⟨ha, hb, hlt⟩] at h

theorem flt_eq_false_of_fge {a b : Word} (h : fge a b = true) : flt a b = false := by
  obtain ⟨-, -, hle⟩ := (fge_iff a b).1 h
  rw [Bool.eq_false_iff, ne_eq, flt_iff]
  exact fun ⟨_, _, hlt⟩ => hlt.not_ge hle

theorem clamp01_of_below {v : Word} (h : flt v ZERO = true) : clamp01 v = ZERO := by simp [clamp01, h]

theorem clamp01_of_above {v : Word} (h : fgt v ONE = true) : clamp01 v = ONE := by
  have hzero : flt v ZERO = false :=
    flt_eq_false_of_fge (fge_of_fgt (fgt_of_fgt_of_fge h (by decide)))
  simp [clamp01, h, hzero]

theorem clamp01_of_between {v : Word} (h : flt v ZERO = false) (h' : fgt v ONE = false) : clamp01 v = v := by
  simp [clamp01, h, h']

/-- Settles O48: below, above or between the ends, and no NaN is below or above. -/
theorem clampLandsInUnitInterval : Obligations.ClampLandsInUnitInterval := by
  intro v
  refine ⟨fun hnan => ?_, clamp01_of_below, clamp01_of_above, clamp01_of_between, fun h h' => ?_, fun hnan => ?_,
    by decide⟩
  · by_cases hlt : flt v ZERO = true
    · rw [clamp01_of_below hlt]; decide
    by_cases hgt : fgt v ONE = true
    · rw [clamp01_of_above hgt]; decide
    rw [Bool.not_eq_true] at hlt hgt
    rw [clamp01_of_between hlt hgt]
    exact ⟨fge_of_flt_eq_false hnan (by decide) hlt, fge_of_flt_eq_false (by decide) hnan hgt⟩
  · exact clamp01_of_between (flt_eq_false_of_fge h) (flt_eq_false_of_fge h')
  · exact clamp01_of_between (by simp [flt, hnan]) (by simp [fgt, flt, hnan])

end Sys2Proof.Machine
end

section
/-!
The register map (10_state.md R36): `regOf`, a lookup by ranges of byte offsets, against the table `Reg.offset`.
-/

namespace Sys2Proof.Machine

/-! ## The offset of a register that the map gives -/

theorem globalRegs_offset {j : ℕ} {r : Reg} (h : globalRegs[j]? = some r) : r.offset = 4 * j := by
  obtain ⟨hj, rfl⟩ := List.getElem?_eq_some_iff.1 h
  have table : ∀ j : Fin 6, globalRegs[j].offset = 4 * j := by decide
  exact table ⟨j, hj⟩

theorem oscRegs_offset {j : ℕ} {f : OscReg} (k : Fin 2) (h : oscRegs[j]? = some f) :
    (Reg.osc k f).offset = 0x0100 + 0x20 * k.val + 4 * j := by
  obtain ⟨hj, rfl⟩ := List.getElem?_eq_some_iff.1 h
  have table : ∀ (k : Fin 2) (j : Fin 5), (Reg.osc k oscRegs[j]).offset = 0x0100 + 0x20 * k.val + 4 * j := by decide
  exact table k ⟨j, hj⟩

theorem fmRegs_offset {j : ℕ} {r : Reg} (h : fmRegs[j]? = some r) : r.offset = 0x0140 + 4 * j := by
  obtain ⟨hj, rfl⟩ := List.getElem?_eq_some_iff.1 h
  have table : ∀ j : Fin 2, fmRegs[j].offset = 0x0140 + 4 * j := by decide
  exact table ⟨j, hj⟩

theorem fltRegs_offset {j : ℕ} {f : FltReg} (i : Fin 8) (h : fltRegs[j]? = some f) :
    (Reg.flt i f).offset = 0x0200 + 0x40 * i.val + 4 * j := by
  obtain ⟨hj, rfl⟩ := List.getElem?_eq_some_iff.1 h
  have table : ∀ (i : Fin 8) (j : Fin 14), (Reg.flt i fltRegs[j]).offset = 0x0200 + 0x40 * i.val + 4 * j := by decide
  exact table i ⟨j, hj⟩

theorem dlyRegs_offset {j : ℕ} {f : DlyReg} (h : dlyRegs[j]? = some f) : (Reg.dly f).offset = 0x0400 + 4 * j := by
  obtain ⟨hj, rfl⟩ := List.getElem?_eq_some_iff.1 h
  have table : ∀ j : Fin 12, (Reg.dly dlyRegs[j]).offset = 0x0400 + 4 * j := by decide
  exact table ⟨j, hj⟩

theorem seqRegs_offset {j : ℕ} {r : Reg} (h : seqRegs[j]? = some r) : r.offset = 0x0600 + 4 * j := by
  obtain ⟨hj, rfl⟩ := List.getElem?_eq_some_iff.1 h
  have table : ∀ j : Fin 3, seqRegs[j].offset = 0x0600 + 4 * j := by decide
  exact table ⟨j, hj⟩

theorem snsRegs_offset {j : ℕ} {f : SnsReg} (sn : Fin 2) (h : snsRegs[j]? = some f) :
    (Reg.sns sn f).offset = 0x0800 + 0x800 * sn.val + 4 * j := by
  obtain ⟨hj, rfl⟩ := List.getElem?_eq_some_iff.1 h
  have table : ∀ (sn : Fin 2) (j : Fin 7), (Reg.sns sn snsRegs[j]).offset = 0x0800 + 0x800 * sn.val + 4 * j := by
    decide
  exact table sn ⟨j, hj⟩

/-- Inside a sensor's block the map gives the register at the offset asked for. -/
theorem snsRegOf_offset {sn : Fin 2} {o : ℕ} {r : Reg} (ho : o < 0x800) (h4 : o % 4 = 0)
    (h : snsRegOf sn o = some r) : r.offset = 0x0800 + 0x800 * sn.val + o := by
  unfold snsRegOf at h
  split_ifs at h
  · obtain ⟨f, hf, rfl⟩ := Option.map_eq_some_iff.1 h
    rw [snsRegs_offset sn hf]; omega
  all_goals
    cases h
    simp only [Reg.offset, Fin.val_ofNat]
    omega

/-- The register that a word index names is at that word's byte offset. -/
theorem offset_of_regOf {idx : BitVec 11} {r : Reg} (h : regOf idx = some r) : r.offset = 4 * idx.toNat := by
  unfold regOf at h
  have h4 : 4 * idx.toNat % 4 = 0 := by omega
  generalize 4 * idx.toNat = off at h h4 ⊢
  dsimp only at h
  split_ifs at h
  · rw [globalRegs_offset h]; omega
  · obtain ⟨f, hf, rfl⟩ := Option.map_eq_some_iff.1 h
    rw [oscRegs_offset _ hf, Fin.val_ofNat]; omega
  · rw [fmRegs_offset h]; omega
  · obtain ⟨f, hf, rfl⟩ := Option.map_eq_some_iff.1 h
    rw [fltRegs_offset _ hf, Fin.val_ofNat]; omega
  · obtain ⟨f, hf, rfl⟩ := Option.map_eq_some_iff.1 h
    rw [dlyRegs_offset hf]; omega
  · rw [seqRegs_offset h]; omega
  · cases h
    simp only [Reg.offset, Fin.val_ofNat]; omega
  · rw [snsRegOf_offset (by omega) (by omega) h, Fin.val_ofNat]; omega

/-! ## The register at an offset -/

/-- A sensor's block of the map. -/
theorem regOf_sensor {idx : BitVec 11} {o : ℕ} (sn : Fin 2) (ho : o < 0x800)
    (h : 4 * idx.toNat = 0x0800 + 0x800 * sn.val + o) : regOf idx = snsRegOf sn o := by
  unfold regOf
  generalize 4 * idx.toNat = off at h ⊢
  dsimp only
  iterate 8 rw [if_neg (by omega)]
  have hsn : Fin.ofNat 2 ((off - 0x0800) / 0x800) = sn := by ext; simp only [Fin.val_ofNat]; omega
  have hoff : (off - 0x0800) % 0x800 = o := by omega
  rw [if_pos (by omega), hsn, hoff]

theorem snsRegOf_grid (sn : Fin 2) (c r : Fin 16) :
    snsRegOf sn (0x400 + 4 * (16 * r.val + c.val)) = some (.grid sn c r) := by
  unfold snsRegOf
  iterate 5 rw [if_neg (by omega)]
  have hc : Fin.ofNat 16 ((0x400 + 4 * (16 * r.val + c.val) - 0x400) / 4 % 16) = c := by
    ext; simp only [Fin.val_ofNat]; omega
  have hr : Fin.ofNat 16 ((0x400 + 4 * (16 * r.val + c.val) - 0x400) / 64) = r := by
    ext; simp only [Fin.val_ofNat]; omega
  rw [hc, hr]

/-- The word at a register's offset names that register. -/
theorem regOf_offset (r : Reg) : regOf (BitVec.ofNat 11 (r.offset / 4)) = some r := by
  cases r with
  | osc k f => revert k; cases f <;> decide
  | flt i f => revert i; cases f <;> decide
  | dly f => cases f <;> decide
  | ain ch => revert ch; decide
  | sns sn f => revert sn; cases f <;> decide
  | colch sn c => revert sn c; decide
  | min sn c => revert sn c; decide
  | max sn c => revert sn c; decide
  | grid sn c r =>
    rw [regOf_sensor (o := 0x400 + 4 * (16 * r.val + c.val)) sn (by omega), snsRegOf_grid]
    rw [BitVec.toNat_ofNat, Reg.offset]; omega
  | _ => decide

/-- Settles O5: each list of the map is in the order of the offsets, and the ranges of the map start where the table
has them. -/
theorem registerMapAgreesWithOffsets : Obligations.RegisterMapAgreesWithOffsets := by
  refine ⟨fun r => ⟨?_, regOf_offset r⟩, fun _ _ => offset_of_regOf⟩
  have hword := offset_of_regOf (regOf_offset r)
  omega

/-- The word index of a register, whichever way it is written. -/
theorem regOf_of_offset {idx : BitVec 11} {r : Reg} (h : 4 * idx.toNat = r.offset) : regOf idx = some r := by
  have hidx : idx = BitVec.ofNat 11 (r.offset / 4) := by
    rw [← h, Nat.mul_div_cancel_left _ (by norm_num), BitVec.ofNat_toNat, BitVec.setWidth_eq]
  rw [hidx, regOf_offset]

theorem regOf_eq_none {idx : BitVec 11} (h : ∀ r : Reg, r.offset ≠ 4 * idx.toNat) : regOf idx = none :=
  Option.eq_none_iff_forall_ne_some.2 fun r hr => h r (offset_of_regOf hr)

end Sys2Proof.Machine
end

section
/-!
What the host reads (10_state.md R31, R33, R36, R37, R55, R60, R63): the words that are put together from fields, and
the registers that are fields themselves.
-/

namespace Sys2Proof.Machine

/-! ## Fields of a word -/

/-- A field of a word from bit `pos` on. -/
def fieldAt {w : ℕ} (pos : ℕ) (x : BitVec w) : Word := x.setWidth 32 <<< pos

theorem getLsbD_fieldAt {w : ℕ} (pos : ℕ) (x : BitVec w) (j : ℕ) :
    (fieldAt pos x).getLsbD j = (decide (pos ≤ j ∧ j < 32) && x.getLsbD (j - pos)) := by
  by_cases hle : pos ≤ j
  · by_cases hlt : j < 32
    · simp [fieldAt, hle, hlt]
    · simp [fieldAt, hlt]
  · simp [fieldAt, hle, not_le.1 hle]

/-- The field is read back from its place. -/
theorem extractLsb'_fieldAt_self {w pos : ℕ} (h : pos + w ≤ 32) (x : BitVec w) :
    (fieldAt pos x).extractLsb' pos w = x := by
  apply BitVec.eq_of_getLsbD_eq
  intro j hj
  rw [BitVec.getLsbD_extractLsb', getLsbD_fieldAt]
  simp [hj, show pos + j < 32 by omega]

/-- Outside its place a field is 0. -/
theorem extractLsb'_fieldAt_disjoint {w pos lo len : ℕ} (h : lo + len ≤ pos ∨ pos + w ≤ lo) (x : BitVec w) :
    (fieldAt pos x).extractLsb' lo len = 0 := by
  apply BitVec.eq_of_getLsbD_eq
  intro j hj
  simp only [BitVec.getLsbD_extractLsb', getLsbD_fieldAt, hj, decide_true, Bool.true_and, BitVec.ofNat_eq_ofNat,
    BitVec.getLsbD_zero, Bool.and_eq_false_imp, decide_eq_true_eq]
  intro hpos
  exact BitVec.getLsbD_of_ge x _ (by omega)

theorem flagAt_eq_fieldAt (pos : ℕ) (b : Bool) : flagAt pos b = fieldAt pos (BitVec.ofBool b) := by
  cases b
  · simp [flagAt, fieldAt]
  · rfl

theorem ofNat_eq_setWidth (n : Fin 16) : BitVec.ofNat 32 n.val = (BitVec.ofNat 4 n.val).setWidth 32 := by
  apply BitVec.eq_of_toNat_eq
  simp only [BitVec.toNat_ofNat, BitVec.toNat_setWidth]
  omega

theorem seqStateWord_eq_fields (s : State) : seqStateWord s =
    fieldAt 0 s.sns[0].calState.code ||| fieldAt 2 s.sns[1].calState.code ||| fieldAt 8 (BitVec.ofNat 4 s.seq.row.val)
      ||| fieldAt 16 (BitVec.ofBool s.sns[0].calState.calibrating)
      ||| fieldAt 17 (BitVec.ofBool s.sns[1].calState.calibrating) := by
  simp only [seqStateWord, flagAt_eq_fieldAt, ofNat_eq_setWidth]
  simp [fieldAt]

theorem peakLocWord_eq_fields (x : Sensor) : x.peakLocWord =
    fieldAt 0 (BitVec.ofNat 4 x.peakCol.val) ||| fieldAt 8 (BitVec.ofNat 4 x.peakRow.val) := by
  simp only [Sensor.peakLocWord, ofNat_eq_setWidth]
  simp [fieldAt]

theorem getLsbD_flagAt {pos : ℕ} (hpos : pos < 32) (b : Bool) (j : ℕ) :
    (flagAt pos b).getLsbD j = (decide (j = pos) && b) := by
  have hplace : (pos ≤ j ∧ j < 32) ∧ j - pos = 0 ↔ j = pos := by omega
  rw [flagAt_eq_fieldAt, getLsbD_fieldAt, BitVec.getLsbD_ofBool, ← Bool.and_assoc, ← Bool.decide_and]
  simp only [hplace]

/-- Settles O15: each flag of STATUS is alone at its position. -/
theorem statusWordFields : Obligations.StatusWordFields := by
  intro s j
  simp only [readReg, Status.toWord, BitVec.getLsbD_or, getLsbD_flagAt, Nat.reduceLT]
  split_ifs <;> simp [*]

theorem CalState.calibrating_eq (c : CalState) : c.calibrating = decide (c ≠ .done) := by
  cases c <;> rfl

/-- Settles O16: the words are put together from disjoint fields, and a field is read back from its place. -/
theorem sequencerWordFields : Obligations.SequencerWordFields := by
  intro s sn
  simp only [readReg, SnsReg.get, seqStateWord_eq_fields, peakLocWord_eq_fields, BitVec.extractLsb'_or,
    BitVec.getLsbD_or, getLsbD_fieldAt]
  refine ⟨?_, ?_, ?_, ?_, ?_, ?_, ?_, ?_, ?_, ?_, ?_, ?_, ?_⟩
  case refine_9 => cases (s.sns[sn.val]).calState <;> rfl
  all_goals
    simp [extractLsb'_fieldAt_self, extractLsb'_fieldAt_disjoint, CalState.calibrating_eq]

/-! ## Registers that are fields -/

/-- A field above a number adds to it. -/
theorem ofNat_or_shiftLeft {low pos : ℕ} (h : low < 2 ^ pos) (n : ℕ) :
    BitVec.ofNat 32 low ||| (BitVec.ofNat 32 n <<< pos) = BitVec.ofNat 32 (low + n * 2 ^ pos) := by
  have hor : low ||| n <<< pos = low + n * 2 ^ pos := by
    rw [Nat.or_comm, ← Nat.shiftLeft_add_eq_or_of_lt h, Nat.shiftLeft_eq, Nat.add_comm]
  rw [← hor, BitVec.ofNat_or]
  congr 1
  apply BitVec.eq_of_toNat_eq
  simp [BitVec.toNat_shiftLeft, Nat.shiftLeft_eq, Nat.mod_mul_mod]

theorem hwcfgWord_eq (b : Build) :
    hwcfgWord b = BitVec.ofNat 32 (b.dim + 16 * 2 ^ 8 + 8 * 2 ^ 16 + b.lag * 2 ^ 20) := by
  have hdim := b.dim_le
  rw [hwcfgWord, Config.nain, Config.nflt, ofNat_or_shiftLeft (by omega),
    ofNat_or_shiftLeft (by omega), ofNat_or_shiftLeft (by omega)]

/-- The calibration registers of one column: their entries below DIM, 0 from DIM on. -/
theorem readReg_column (s : State) (sn : Fin 2) (c : Fin 16) :
    (c.val < s.build.dim →
      (readReg (.colch sn c) s).toNat = ((s.sns[sn.val]).colch[c.val]).val ∧
      readReg (.min sn c) s = (s.sns[sn.val]).mins[c.val] ∧
      readReg (.max sn c) s = (s.sns[sn.val]).maxs[c.val]) ∧
    (s.build.dim ≤ c.val →
      readReg (.colch sn c) s = 0 ∧ readReg (.min sn c) s = 0 ∧ readReg (.max sn c) s = 0) := by
  constructor
  · intro hc
    simp only [readReg, if_pos hc, BitVec.toNat_ofNat, and_self, and_true]
    omega
  · intro hc
    simp only [readReg, if_neg (not_lt.2 hc), and_self]

theorem readReg_grid (s : State) (sn : Fin 2) (c r : Fin 16) :
    (c.val < s.build.dim ∧ r.val < s.build.dim →
      readReg (.grid sn c r) s = ((s.sns[sn.val]).grid[c.val])[r.val]) ∧
    (s.build.dim ≤ c.val ∨ s.build.dim ≤ r.val → readReg (.grid sn c r) s = 0) :=
  ⟨fun h => if_pos h, fun h => if_neg (by omega)⟩

/-- Settles O60: HWCFG is put together from disjoint fields, the arrays end at DIM, and every other register is a field
or a fixed word. -/
theorem registersReadTheirFields : Obligations.RegistersReadTheirFields := by
  intro s
  refine ⟨⟨rfl, hwcfgWord_eq s.build, rfl, rfl, rfl⟩, fun k => ⟨rfl, rfl, rfl, rfl, rfl⟩, ⟨rfl, rfl⟩, fun i => ?_, ?_,
    ⟨rfl, rfl⟩, fun ch => rfl, fun sn => ⟨rfl, rfl, rfl, rfl, rfl⟩, readReg_column s, readReg_grid s⟩
  · exact ⟨rfl, rfl, rfl, rfl, rfl, rfl, rfl, rfl, rfl, rfl, rfl, rfl, rfl, rfl⟩
  · exact ⟨rfl, rfl, rfl, rfl, rfl, rfl, rfl, rfl, rfl, rfl, rfl, rfl⟩

end Sys2Proof.Machine
end

section
/-!
What a command can do (44_control.md R350): `CommandEffect` has one case for each way a command answers, and every
frame of a command is read off it.
-/

namespace Sys2Proof.Machine

@[simp] theorem Status.raise_dlyPhase (c : Condition) (st : Status) : (st.raise c).dlyPhase = st.dlyPhase := by
  cases c <;> rfl
@[simp] theorem Status.raise_dlyCfg (c : Condition) (st : Status) : (st.raise c).dlyCfg = st.dlyCfg := by
  cases c <;> rfl
@[simp] theorem Status.raise_oscCfg (c : Condition) (st : Status) : (st.raise c).oscCfg = st.oscCfg := by
  cases c <;> rfl

/-- A render out of turn only raises ErrOrder before it executes. -/
theorem checkTurn_frame (inTurn : Bool) (w : Word) (s : State) :
    ∃ order errCmd, checkTurn inTurn w s =
      { s with status := { s.status with errOrder := order }, errCmd := errCmd } := by
  cases inTurn
  · exact ⟨true, w, rfl⟩
  · exact ⟨s.status.errOrder, s.errCmd, rfl⟩

/-- The ways a command takes `s` to its next state. A guard stands in it where a frame or the invariant needs it: what
makes a command raise a condition does not. -/
inductive CommandEffect (s : State) : Instr → State → Prop
  | nop : CommandEffect s .nop s
  | raised (i : Instr) (c : Condition) : CommandEffect s i (raise c (encode i) s)
  | oscStep (k : Fin 2) (hcfg : s.status.oscCfg[k.val] = true) : CommandEffect s (.oscStep k) (nextSample k s)
  | fmStep (hcfg : ∀ k : Fin 2, s.status.oscCfg[k.val] = true) : CommandEffect s .fmStep (fmAdvance s)
  | fltConfig (n : Fin 8) :
      CommandEffect s (.fltConfig n) (s.setFlt n ((s.flt[n.val]).design (s.flt[n.val]).tangent))
  | fltApply (n : Fin 8) (out : Word) :
      CommandEffect s (.fltApply n) (s.setFlt n { (s.flt[n.val]).lpShift (s.flt[n.val]).input with output := out })
  | dlyConfig (cap len : Int) (hplan : s.dly.plan = some (cap, len)) :
      CommandEffect s .dlyConfig
        ((s.setDly (s.dly.configured cap len)).setStatus { s.status with dlyPhase := false, dlyCfg := true })
  | renderLeft (order : Bool) (errCmd : Word) (hcfg : s.status.dlyCfg = true) :
      CommandEffect s .dlyRenderL
        (renderLeft { s with status := { s.status with errOrder := order }, errCmd := errCmd })
  | renderRight (order : Bool) (errCmd : Word) (hcfg : s.status.dlyCfg = true) :
      CommandEffect s .dlyRenderR
        (renderRight { s with status := { s.status with errOrder := order }, errCmd := errCmd })
  | frameTick (sn : Fin 2) : CommandEffect s .seqFrame (tick sn s)
  | samplingFrame (hdone : ∀ sn : Fin 2, (s.sns[sn.val]).calState = .done) :
      CommandEffect s .seqFrame (samplingFrame s)
  | snsTick (sn : Fin 2) : CommandEffect s (.snsTick sn) (tick sn s)
  | snsSample (sn : Fin 2) (row : BitVec 8) (hdone : (s.sns[sn.val]).calState = .done) :
      CommandEffect s (.snsSample sn row) (sampleRow sn row.toNat s)
  | snsResolve (sn : Fin 2) (hdone : (s.sns[sn.val]).calState = .done) :
      CommandEffect s (.snsResolve sn) (resolve sn s)

section Effects

variable {s t : State}

theorem execOscStep_effect {k : Fin 2} (h : exec (.oscStep k) s = .next t) : CommandEffect s (.oscStep k) t := by
  simp only [exec, execOscStep] at h
  split at h
  next => cases h; exact .raised _ _
  next hcfg => cases h; exact .oscStep k (by simpa using hcfg)

theorem execFmStep_effect (h : exec .fmStep s = .next t) : CommandEffect s .fmStep t := by
  simp only [exec, execFmStep] at h
  split at h
  next => cases h; exact .raised _ _
  next hcfg =>
    cases h
    obtain ⟨h0, h1⟩ := not_or.1 hcfg
    refine .fmStep fun k => ?_
    fin_cases k
    · simpa using h0
    · simpa using h1

theorem execFltApply_effect {n : Fin 8} (h : exec (.fltApply n) s = .next t) : CommandEffect s (.fltApply n) t := by
  have heq : exec (.fltApply n) s = .next (s.setFlt n { (s.flt[n.val]).lpShift (s.flt[n.val]).input with
      output := (s.flt[n.val]).lpOut (s.flt[n.val]).input }) := by
    simp [exec, execFltApply, State.setFlt]
  rw [heq] at h
  cases h
  exact .fltApply n _

theorem execDlyConfig_effect (h : exec .dlyConfig s = .next t) : CommandEffect s .dlyConfig t := by
  simp only [exec, execDlyConfig] at h
  split at h
  next => cases h; exact .raised _ _
  next cap len hplan => cases h; exact .dlyConfig cap len hplan

theorem execDlyRenderL_effect (h : exec .dlyRenderL s = .next t) : CommandEffect s .dlyRenderL t := by
  simp only [exec, execDlyRenderL] at h
  split at h
  next => cases h; exact .raised _ _
  next hcfg =>
    split at h
    next => cases h
    next =>
      cases h
      obtain ⟨order, errCmd, hturn⟩ := checkTurn_frame (!s.status.dlyPhase) (encode .dlyRenderL) s
      rw [hturn]
      exact .renderLeft order errCmd (by simpa using hcfg)

theorem execDlyRenderR_effect (h : exec .dlyRenderR s = .next t) : CommandEffect s .dlyRenderR t := by
  simp only [exec, execDlyRenderR] at h
  split at h
  next => cases h; exact .raised _ _
  next hcfg =>
    split at h
    next => cases h
    next =>
      cases h
      obtain ⟨order, errCmd, hturn⟩ := checkTurn_frame s.status.dlyPhase (encode .dlyRenderR) s
      rw [hturn]
      exact .renderRight order errCmd (by simpa using hcfg)

theorem execSeqFrame_effect (h : exec .seqFrame s = .next t) : CommandEffect s .seqFrame t := by
  simp only [exec, execSeqFrame] at h
  split at h
  next => cases h; exact .frameTick 0
  next h0 =>
    split at h
    next => cases h; exact .frameTick 1
    next h1 =>
      cases h
      refine .samplingFrame fun sn => ?_
      fin_cases sn
      · exact not_not.1 h0
      · exact not_not.1 h1

theorem execSnsSample_effect {sn : Fin 2} {row : BitVec 8} (h : exec (.snsSample sn row) s = .next t) :
    CommandEffect s (.snsSample sn row) t := by
  simp only [exec, execSnsSample] at h
  split at h
  next => cases h; exact .raised _ _
  next hdone => cases h; exact .snsSample sn row (not_not.1 hdone)

theorem execSnsResolve_effect {sn : Fin 2} (h : exec (.snsResolve sn) s = .next t) :
    CommandEffect s (.snsResolve sn) t := by
  simp only [exec, execSnsResolve] at h
  split at h
  next => cases h; exact .raised _ _
  next hdone => cases h; exact .snsResolve sn (not_not.1 hdone)

/-- Every next state of a command is one of the effects. -/
theorem exec_effect {i : Instr} (h : exec i s = .next t) : CommandEffect s i t := by
  cases i with
  | nop => cases h; exact .nop
  | oscStep k => exact execOscStep_effect h
  | fmStep => exact execFmStep_effect h
  | fltConfig n => cases h; exact .fltConfig n
  | fltApply n => exact execFltApply_effect h
  | dlyConfig => exact execDlyConfig_effect h
  | dlyRenderL => exact execDlyRenderL_effect h
  | dlyRenderR => exact execDlyRenderR_effect h
  | seqFrame => exact execSeqFrame_effect h
  | snsTick sn => cases h; exact .snsTick sn
  | snsSample sn row => exact execSnsSample_effect h
  | snsResolve sn => exact execSnsResolve_effect h

/-! ## Frames -/

/-- No command touches the build, the port, the last word read or what the host alone writes outside the arrays. -/
theorem CommandEffect.host_eq {i : Instr} (h : CommandEffect s i t) :
    t.build = s.build ∧ t.port = s.port ∧ t.readData = s.readData ∧ t.ain = s.ain ∧
    t.seq.calDur = s.seq.calDur ∧ t.fm.carBase = s.fm.carBase ∧ t.dly.fs = s.dly.fs ∧ t.dly.sec = s.dly.sec ∧
    t.dly.gain = s.dly.gain ∧ t.dly.input = s.dly.input ∧ t.status.oscCfg = s.status.oscCfg := by
  cases h with
  | raised _ c => simp
  | samplingFrame =>
    obtain ⟨_, _, _, _, _, heq, -⟩ := samplingFrame_frame s
    simp [heq]
  | _ => exact ⟨rfl, rfl, rfl, rfl, rfl, rfl, rfl, rfl, rfl, rfl, rfl⟩

/-- Only the two oscillator commands touch an oscillator. -/
theorem CommandEffect.osc_eq {i : Instr} (h : CommandEffect s i t) (hstep : ∀ k, i ≠ .oscStep k) (hfm : i ≠ .fmStep) :
    t.osc = s.osc := by
  cases h with
  | oscStep k => exact absurd rfl (hstep k)
  | fmStep => exact absurd rfl hfm
  | samplingFrame =>
    obtain ⟨_, _, _, _, _, heq, -⟩ := samplingFrame_frame s
    rw [heq]
  | _ => rfl

theorem CommandEffect.osc_eq_of_ne {k j : Fin 2} (h : CommandEffect s (.oscStep k) t) (hj : j ≠ k) :
    t.osc[j.val] = s.osc[j.val] := by
  cases h with
  | raised => rfl
  | oscStep => exact State.setOsc_other k j hj.symm _ s

theorem CommandEffect.fm_eq {i : Instr} (h : CommandEffect s i t) (hfm : i ≠ .fmStep) : t.fm = s.fm := by
  cases h with
  | fmStep => exact absurd rfl hfm
  | samplingFrame =>
    obtain ⟨_, _, _, _, _, heq, -⟩ := samplingFrame_frame s
    rw [heq]
  | _ => rfl

theorem CommandEffect.dly_eq {i : Instr} (h : CommandEffect s i t) (hconfig : i ≠ .dlyConfig)
    (hleft : i ≠ .dlyRenderL) (hright : i ≠ .dlyRenderR) :
    t.dly = s.dly ∧ t.status.dlyPhase = s.status.dlyPhase ∧ t.status.dlyCfg = s.status.dlyCfg := by
  cases h with
  | raised => simp
  | dlyConfig => exact absurd rfl hconfig
  | renderLeft => exact absurd rfl hleft
  | renderRight => exact absurd rfl hright
  | samplingFrame =>
    obtain ⟨_, _, _, _, _, heq, -⟩ := samplingFrame_frame s
    simp [heq]
  | _ => exact ⟨rfl, rfl, rfl⟩

theorem CommandEffect.seq_eq {i : Instr} (h : CommandEffect s i t) (hframe : i ≠ .seqFrame) : t.seq = s.seq := by
  cases h with
  | frameTick => rfl
  | samplingFrame => exact absurd rfl hframe
  | _ => rfl

/-- Filters: the one that is named, the three of a resolver, the six of a frame. -/
theorem CommandEffect.flt_eq {i : Instr} (h : CommandEffect s i t) (hflt : ∀ n, i ≠ .fltConfig n ∧ i ≠ .fltApply n)
    (hresolve : ∀ sn, i ≠ .snsResolve sn) (hframe : i ≠ .seqFrame) : t.flt = s.flt := by
  cases h with
  | fltConfig n => exact absurd rfl (hflt n).1
  | fltApply n => exact absurd rfl (hflt n).2
  | snsResolve sn => exact absurd rfl (hresolve sn)
  | samplingFrame => exact absurd rfl hframe
  | _ => rfl

theorem CommandEffect.flt_eq_of_ne {i : Instr} {n j : Fin 8} (h : CommandEffect s i t)
    (hi : i = .fltConfig n ∨ i = .fltApply n) (hj : j ≠ n) : t.flt[j.val] = s.flt[j.val] := by
  rcases hi with rfl | rfl <;> cases h
  case inl.raised => rfl
  case inl.fltConfig => exact State.setFlt_other n j hj.symm _ s
  case inr.raised => rfl
  case inr.fltApply => exact State.setFlt_other n j hj.symm _ s

theorem CommandEffect.flt_eq_of_resolve {sn : Fin 2} {j : Fin 8} (h : CommandEffect s (.snsResolve sn) t)
    (hj : j.val / 3 ≠ sn.val) : t.flt[j.val] = s.flt[j.val] := by
  cases h with
  | raised => rfl
  | snsResolve =>
    obtain ⟨_, _, _, _, _, heq, hflt⟩ := resolve_frame sn s
    rw [heq]
    exact (hflt j).resolve_right fun ⟨hsn, _⟩ => hj hsn

theorem CommandEffect.flt_eq_of_frame {j : Fin 8} (h : CommandEffect s .seqFrame t) (hj : 6 ≤ j.val) :
    t.flt[j.val] = s.flt[j.val] := by
  cases h with
  | raised => rfl
  | frameTick => rfl
  | samplingFrame =>
    obtain ⟨_, _, _, _, _, heq, hflt⟩ := samplingFrame_frame s
    rw [heq]
    exact (hflt j).resolve_right fun ⟨hlt, _⟩ => by omega

/-- Sensors: the one that is named, or both in a frame. -/
theorem CommandEffect.sns_eq {i : Instr} (h : CommandEffect s i t)
    (hsns : ∀ (sn : Fin 2) (row : BitVec 8), i ≠ .snsTick sn ∧ i ≠ .snsSample sn row ∧ i ≠ .snsResolve sn)
    (hframe : i ≠ .seqFrame) : t.sns = s.sns := by
  cases h with
  | frameTick => exact absurd rfl hframe
  | samplingFrame => exact absurd rfl hframe
  | snsTick sn => exact absurd rfl (hsns sn 0).1
  | snsSample sn row => exact absurd rfl (hsns sn row).2.1
  | snsResolve sn => exact absurd rfl (hsns sn 0).2.2
  | _ => rfl

theorem CommandEffect.sns_eq_of_ne {i : Instr} {sn j : Fin 2} {row : BitVec 8} (h : CommandEffect s i t)
    (hi : i = .snsTick sn ∨ i = .snsSample sn row ∨ i = .snsResolve sn) (hj : j ≠ sn) :
    t.sns[j.val] = s.sns[j.val] := by
  rcases hi with rfl | rfl | rfl <;> cases h
  case inl.raised => rfl
  case inl.snsTick => exact State.setSns_other sn j hj.symm _ s
  case inr.inl.raised => rfl
  case inr.inl.snsSample => exact State.setSns_other sn j hj.symm _ s
  case inr.inr.raised => rfl
  case inr.inr.snsResolve => exact State.setSns_other sn j hj.symm _ _

/-! ## What happens inside a unit -/

/-- A filter is left alone, designed anew, or stepped; only FLT_APPLY writes its OUTPUT. -/
theorem CommandEffect.flt_cases {i : Instr} (h : CommandEffect s i t) (j : Fin 8) :
    t.flt[j.val] = s.flt[j.val] ∨ (∃ k, t.flt[j.val] = (s.flt[j.val]).design k) ∨
    (∃ v, t.flt[j.val] = (s.flt[j.val]).lpShift v) ∨
    ∃ v out, t.flt[j.val] = { (s.flt[j.val]).lpShift v with output := out } := by
  cases h with
  | fltConfig n =>
    by_cases hn : n = j
    · subst hn
      exact .inr (.inl ⟨_, State.setFlt_self n _ s⟩)
    · exact .inl (State.setFlt_other n j hn _ s)
  | fltApply n =>
    by_cases hn : n = j
    · subst hn
      exact .inr (.inr (.inr ⟨_, _, State.setFlt_self n _ s⟩))
    · exact .inl (State.setFlt_other n j hn _ s)
  | samplingFrame =>
    obtain ⟨_, _, _, _, _, heq, hflt⟩ := samplingFrame_frame s
    rw [heq]
    exact (hflt j).imp_right fun ⟨_, hstep⟩ => .inr (.inl hstep)
  | snsResolve sn =>
    obtain ⟨_, _, _, _, _, heq, hflt⟩ := resolve_frame sn s
    rw [heq]
    exact (hflt j).imp_right fun ⟨_, hstep⟩ => .inr (.inl hstep)
  | _ => exact .inl rfl

theorem CommandEffect.flt_operands {i : Instr} (h : CommandEffect s i t) (j : Fin 8) :
    (t.flt[j.val]).fs = (s.flt[j.val]).fs ∧ (t.flt[j.val]).fc = (s.flt[j.val]).fc ∧
      (t.flt[j.val]).input = (s.flt[j.val]).input := by
  rcases h.flt_cases j with heq | ⟨_, heq⟩ | ⟨_, heq⟩ | ⟨_, _, heq⟩ <;> simp [heq]

theorem tick_sns (sn j : Fin 2) (s : State) : (tick sn s).sns[j.val] = s.sns[j.val] ∨
    (tick sn s).sns[j.val] = (s.sns[j.val]).tick s.build s.seq.calDur s.ain := by
  by_cases hj : sn = j
  · exact .inr (hj ▸ State.setSns_self sn _ s)
  · exact .inl (State.setSns_other sn j hj _ s)

/-- A sensor is ticked, or its calibration is left alone. -/
theorem CommandEffect.sns_cases {i : Instr} (h : CommandEffect s i t) (j : Fin 2) :
    (s.sns[j.val]).SameCalibration (t.sns[j.val]) ∨
    t.sns[j.val] = (s.sns[j.val]).tick s.build s.seq.calDur s.ain := by
  have same : ∀ x y : Sensor, y = x → x.SameCalibration y := by rintro x _ rfl; exact ⟨rfl, rfl, rfl, rfl, rfl⟩
  cases h with
  | frameTick sn => exact (tick_sns sn j s).imp_left (same _ _)
  | snsTick sn => exact (tick_sns sn j s).imp_left (same _ _)
  | samplingFrame => exact .inl (samplingFrame_calibration s j)
  | snsSample sn row => exact .inl (sampleRow_calibration sn row.toNat s j)
  | snsResolve sn => exact .inl (resolve_calibration sn s j)
  | _ => exact .inl (same _ _ rfl)

theorem CommandEffect.colch_eq {i : Instr} (h : CommandEffect s i t) (j : Fin 2) :
    (t.sns[j.val]).colch = (s.sns[j.val]).colch := by
  rcases h.sns_cases j with ⟨-, -, hcolch, -⟩ | htick
  · exact hcolch
  · obtain ⟨_, _, _, _, heq⟩ := Sensor.tick_frame s.build s.seq.calDur s.ain (s.sns[j.val])
    rw [htick, heq]

/-- A command keeps the calibration of a Done sensor. -/
theorem CommandEffect.done_calibration {i : Instr} (h : CommandEffect s i t) {j : Fin 2}
    (hdone : (s.sns[j.val]).calState = .done) : (s.sns[j.val]).SameCalibration (t.sns[j.val]) := by
  rcases h.sns_cases j with hsame | htick
  · exact hsame
  · rw [htick, Sensor.tick_done _ _ _ _ hdone]
    exact ⟨rfl, rfl, rfl, rfl, rfl⟩

theorem nextSample_operands (k j : Fin 2) (s : State) :
    ((nextSample k s).osc[j.val]).fs = (s.osc[j.val]).fs ∧ ((nextSample k s).osc[j.val]).amp = (s.osc[j.val]).amp ∧
      ((nextSample k s).osc[j.val]).freq = (s.osc[j.val]).freq := by
  rw [nextSample_eq]
  by_cases hj : k = j
  · subst hj
    simp
  · rw [State.setOsc_other k j hj]
    exact ⟨rfl, rfl, rfl⟩

theorem fmAdvance_operands (j : Fin 2) (s : State) :
    ((fmAdvance s).osc[j.val]).fs = (s.osc[j.val]).fs ∧ ((fmAdvance s).osc[j.val]).amp = (s.osc[j.val]).amp ∧
      (j = 1 → ((fmAdvance s).osc[j.val]).freq = (s.osc[j.val]).freq) := by
  fin_cases j <;> simp [fmAdvance, nextSample_eq]

/-- FM_STEP alone writes an operand of an oscillator, FREQ of the carrier. -/
theorem CommandEffect.osc_operands {i : Instr} (h : CommandEffect s i t) (j : Fin 2) :
    (t.osc[j.val]).fs = (s.osc[j.val]).fs ∧ (t.osc[j.val]).amp = (s.osc[j.val]).amp ∧
      (i ≠ .fmStep ∨ j = 1 → (t.osc[j.val]).freq = (s.osc[j.val]).freq) := by
  cases h with
  | oscStep k =>
    obtain ⟨hfs, hamp, hfreq⟩ := nextSample_operands k j s
    exact ⟨hfs, hamp, fun _ => hfreq⟩
  | fmStep =>
    obtain ⟨hfs, hamp, hfreq⟩ := fmAdvance_operands j s
    exact ⟨hfs, hamp, fun hj => hfreq (hj.resolve_left (not_not.2 rfl))⟩
  | samplingFrame =>
    obtain ⟨_, _, _, _, _, heq, -⟩ := samplingFrame_frame s
    rw [heq]
    exact ⟨rfl, rfl, fun _ => rfl⟩
  | _ => exact ⟨rfl, rfl, fun _ => rfl⟩

end Effects

/-- Settles O52, unit by unit over the effects of a command. -/
theorem commandsLeaveHostRegisters : Obligations.CommandsLeaveHostRegisters := by
  intro i s t hexec
  have heffect := exec_effect hexec
  obtain ⟨hbuild, hport, hread, hain, hdur, hcar, hfs, hsec, hgain, hin, hcfg⟩ := heffect.host_eq
  exact ⟨hbuild, hport, hread, hain, hdur, hcar, hfs, hsec, hgain, hin, heffect.flt_operands, heffect.colch_eq,
    heffect.osc_operands, hcfg⟩

/-- Settles O54: one frame lemma of `CommandEffect` for each unit. -/
theorem commandsTouchOnlyTheirUnit : Obligations.CommandsTouchOnlyTheirUnit := by
  intro i s t hexec
  have heffect := exec_effect hexec
  refine ⟨fun k j hi hj => ?_, heffect.osc_eq, heffect.fm_eq, fun n j hi hj => heffect.flt_eq_of_ne hi hj,
    fun sn j hi hj => ?_, fun j hi hj => ?_, heffect.flt_eq, heffect.dly_eq, heffect.seq_eq,
    fun sn j row hi hj => heffect.sns_eq_of_ne hi hj, heffect.sns_eq⟩
  · subst hi; exact heffect.osc_eq_of_ne hj
  · subst hi; exact heffect.flt_eq_of_resolve hj
  · subst hi; exact heffect.flt_eq_of_frame hj

end Sys2Proof.Machine
end

section
/-!
The host's accesses (10_state.md R33, R35, R37, R41): what a read returns, what a write of a register stores, and what
one event of the port can do.
-/

namespace Sys2Proof.Machine

/-! ## Reads and commands -/

/-- Settles O6: word index 4 is CMD, and a placed command is the oldest pending write. -/
theorem stepRunsDecodedCommand : Obligations.StepRunsDecodedCommand := by
  refine ⟨fun s w rest i hport hdecode => ?_, fun s w i hdecode hw => ?_⟩
  · rw [step_event s _ rest hport]
    exact (hostWrite_cmd w _).trans (executeCommand_ok w i _ hdecode)
  · have hword : tableWord 32 w = BitVec.ofNat 32 w := by rw [tableWord, Nat.mod_eq_of_lt hw]
    rw [State.withFetchWord, hword, step_event _ _ s.port rfl]
    exact (hostWrite_cmd _ _).trans (executeCommand_ok _ i _ hdecode)

theorem readWord_of_regOf {idx : BitVec 11} {r : Reg} (h : regOf idx = some r) (s : State) :
    readWord idx s = readReg r s := by
  simp only [readWord, h]

theorem readWord_unmapped {idx : BitVec 11} (h : regOf idx = none) (s : State) : readWord idx s = 0 := by
  simp only [readWord, h]

/-- What a register reads depends on neither the port nor the word last read. -/
theorem readReg_port (r : Reg) (s : State) (rest : List HostEvent) :
    readReg r { s with port := rest } = readReg r s := by
  cases r <;> rfl

/-- Settles O8: the word index decides between the register's word and 0, and only the word last read is stored. -/
theorem readHasNoSideEffect : Obligations.ReadHasNoSideEffect := by
  refine ⟨fun s idx r rest hport hoffset => ?_, fun s idx rest hport hnone => ?_, step_idle⟩
  · rw [step_event s _ rest hport, hostEvent, readWord_of_regOf (regOf_of_offset hoffset), readReg_port]
  · rw [step_event s _ rest hport, hostEvent, readWord_unmapped (regOf_eq_none hnone)]

/-! ## Register writes -/

/-- A write of a register other than CMD is complete in its step (R37). -/
theorem step_writeReg {s : State} {r : Reg} {v : Word} {rest : List HostEvent} (hr : r ≠ .cmd)
    (hport : s.port = .write (BitVec.ofNat 11 (r.offset / 4)) v :: rest) :
    step s = .next (writeReg r v { s with port := rest }) := by
  rw [step_event s _ rest hport]
  exact hostWrite_reg _ r v _ (regOf_offset r) hr

theorem clear_eq_ite (flag written : Bool) : (flag && !written) = if written then false else flag := by
  cases written <;> simp

/-- Settles O11: word index 3 is STATUS, and the write clears bit by bit. -/
theorem statusWriteClearsStickyBits : Obligations.StatusWriteClearsStickyBits := fun s v _ hport =>
  ⟨s.status.clear v, step_writeReg (r := .status) (by simp) hport, clear_eq_ite _ _, clear_eq_ite _ _,
    clear_eq_ite _ _, clear_eq_ite _ _, rfl, rfl, rfl⟩

/-- The ways a write of `v` to a register takes `s` to its next state. -/
inductive WriteEffect (s : State) (v : Word) : Reg → State → Prop
  | kept (r : Reg) (hr : r.readOnly = true ∨ r = .cmd ∨ ∃ sn c, r = .colch sn c ∧ s.build.dim ≤ c.val) :
      WriteEffect s v r s
  | status : WriteEffect s v .status (s.setStatus (s.status.clear v))
  | oscFreq (k : Fin 2) : WriteEffect s v (.osc k .freq) (s.setOsc k { s.osc[k.val] with freq := v })
  | oscAmp (k : Fin 2) : WriteEffect s v (.osc k .amp) (s.setOsc k { s.osc[k.val] with amp := v })
  | oscFs (k : Fin 2) : WriteEffect s v (.osc k .fs) ((s.setOsc k { s.osc[k.val] with fs := v }).setStatus
      { s.status with oscCfg := s.status.oscCfg.set k.val true k.isLt })
  | carBase : WriteEffect s v .carBase (s.setFm { s.fm with carBase := v })
  | fltFs (i : Fin 8) : WriteEffect s v (.flt i .fs) (s.setFlt i { s.flt[i.val] with fs := v })
  | fltFc (i : Fin 8) : WriteEffect s v (.flt i .fc) (s.setFlt i { s.flt[i.val] with fc := v })
  | fltInput (i : Fin 8) : WriteEffect s v (.flt i .input) (s.setFlt i { s.flt[i.val] with input := v })
  | dlyFs : WriteEffect s v (.dly .fs) (s.setDly { s.dly with fs := v })
  | dlySec : WriteEffect s v (.dly .sec) (s.setDly { s.dly with sec := v })
  | dlyGain : WriteEffect s v (.dly .gain) (s.setDly { s.dly with gain := v })
  | dlyInput : WriteEffect s v (.dly .input) (s.setDly { s.dly with input := v })
  | calDur : WriteEffect s v .calDur (s.setSeq { s.seq with calDur := v })
  | ain (ch : Fin 16) : WriteEffect s v (.ain ch) (s.setAin ch v)
  | colch (sn : Fin 2) (c : Fin 16) (hc : c.val < s.build.dim) : WriteEffect s v (.colch sn c)
      (s.setSns sn { s.sns[sn.val] with
        colch := (s.sns[sn.val]).colch.set c.val (Fin.ofNat 16 v.toNat) c.isLt })

theorem writeColch_effect (sn : Fin 2) (c : Fin 16) (v : Word) (s : State) :
    WriteEffect s v (.colch sn c) (writeReg (.colch sn c) v s) := by
  by_cases hc : c.val < s.build.dim
  · simpa only [writeReg, writeColch, if_pos hc] using WriteEffect.colch sn c hc
  · simpa only [writeReg, writeColch, if_neg hc] using
      WriteEffect.kept _ (.inr (.inr ⟨sn, c, rfl, not_lt.1 hc⟩))

/-- Every write of a register is one of the effects. -/
theorem writeReg_effect (r : Reg) (v : Word) (s : State) : WriteEffect s v r (writeReg r v s) := by
  cases r with
  | status => exact .status
  | cmd => exact .kept _ (.inr (.inl rfl))
  | osc k f =>
    cases f with
    | freq => exact .oscFreq k
    | amp => exact .oscAmp k
    | fs => exact .oscFs k
    | _ => exact .kept _ (.inl rfl)
  | carBase => exact .carBase
  | flt i f =>
    cases f with
    | fs => exact .fltFs i
    | fc => exact .fltFc i
    | input => exact .fltInput i
    | _ => exact .kept _ (.inl rfl)
  | dly f =>
    cases f with
    | fs => exact .dlyFs
    | sec => exact .dlySec
    | gain => exact .dlyGain
    | input => exact .dlyInput
    | _ => exact .kept _ (.inl rfl)
  | calDur => exact .calDur
  | ain ch => exact .ain ch
  | colch sn c => exact writeColch_effect sn c v s
  | _ => exact .kept _ (.inl rfl)

theorem Reg.plainRW_of_readOnly {r : Reg} (h : r.readOnly = true) : r.plainRW = false := by
  unfold Reg.readOnly at h
  split at h
  case h_4 => simpa using h
  all_goals rfl

section Writes

variable {s t : State} {v : Word} {r : Reg}

theorem WriteEffect.eq_of_readOnly (h : WriteEffect s v r t) (hr : r.readOnly = true) : t = s := by
  cases h with
  | kept => rfl
  | _ => cases hr

theorem WriteEffect.eq_of_colch {sn : Fin 2} {c : Fin 16} (h : WriteEffect s v (.colch sn c) t)
    (hc : s.build.dim ≤ c.val) : t = s := by
  cases h with
  | kept => rfl
  | colch _ _ hlt => exact absurd hlt (not_lt.2 hc)

/-- No write of a register touches the delay memory, the build, the port or the word last read. -/
theorem WriteEffect.frame (h : WriteEffect s v r t) :
    t.port = s.port ∧ t.dmemL = s.dmemL ∧ t.dmemR = s.dmemR ∧ t.build = s.build ∧ t.readData = s.readData := by
  cases h <;> exact ⟨rfl, rfl, rfl, rfl, rfl⟩

theorem WriteEffect.row_eq (h : WriteEffect s v r t) : t.seq.row = s.seq.row := by
  cases h <;> rfl

theorem WriteEffect.status_eq (h : WriteEffect s v r t) (hr : r ≠ .status) (hfs : ∀ k, r ≠ .osc k .fs) :
    t.status = s.status := by
  cases h with
  | status => exact absurd rfl hr
  | oscFs k => exact absurd rfl (hfs k)
  | _ => rfl

/-- A plain register reads what was written. -/
theorem WriteEffect.read_self (h : WriteEffect s v r t) (hr : r.plainRW = true) : readReg r t = v := by
  cases h with
  | kept _ hkept =>
    rcases hkept with hro | rfl | ⟨sn, c, rfl, -⟩
    · rw [Reg.plainRW_of_readOnly hro] at hr
      cases hr
    · cases hr
    · cases hr
  | status => cases hr
  | colch => cases hr
  | _ => simp [readReg, OscReg.get, FltReg.get, DlyReg.get]

/-- COLCH of a column below DIM reads bits [3:0] of what was written. -/
theorem WriteEffect.read_colch {sn : Fin 2} {c : Fin 16} (h : WriteEffect s v (.colch sn c) t)
    (hc : c.val < s.build.dim) : readReg (.colch sn c) t = v &&& 0xF := by
  cases h with
  | kept _ hkept =>
    rcases hkept with hro | hcmd | ⟨sn', c', heq, hle⟩
    · cases hro
    · cases hcmd
    · cases heq; exact absurd hc (not_lt.2 hle)
  | colch =>
    apply BitVec.eq_of_toNat_eq
    have hmask : v.toNat &&& 15 = v.toNat % 16 := Nat.and_two_pow_sub_one_eq_mod v.toNat 4
    simp [readReg, hc, hmask]
    omega

theorem setOsc_get {k j : Fin 2} {g : OscReg} {o : Osc} (h : k = j → g.get o = g.get s.osc[j.val]) :
    g.get (s.setOsc k o).osc[j.val] = g.get s.osc[j.val] := by
  by_cases hk : k = j
  · rw [← h hk, ← hk, State.setOsc_self]
  · rw [State.setOsc_other k j hk]

theorem setFlt_get {k j : Fin 8} {g : FltReg} {x : Filter} (h : k = j → g.get x = g.get s.flt[j.val]) :
    g.get (s.setFlt k x).flt[j.val] = g.get s.flt[j.val] := by
  by_cases hk : k = j
  · rw [← h hk, ← hk, State.setFlt_self]
  · rw [State.setFlt_other k j hk]

theorem WriteEffect.osc_other (h : WriteEffect s v r t) {j : Fin 2} {g : OscReg} (hne : .osc j g ≠ r) :
    g.get t.osc[j.val] = g.get s.osc[j.val] := by
  cases h with
  | oscFreq | oscAmp | oscFs =>
    refine setOsc_get ?_
    rintro rfl
    cases g <;> trivial
  | _ => rfl

theorem WriteEffect.flt_other (h : WriteEffect s v r t) {j : Fin 8} {g : FltReg} (hne : .flt j g ≠ r) :
    g.get t.flt[j.val] = g.get s.flt[j.val] := by
  cases h with
  | fltFs | fltFc | fltInput =>
    refine setFlt_get ?_
    rintro rfl
    cases g <;> trivial
  | _ => rfl

theorem WriteEffect.dly_other (h : WriteEffect s v r t) {g : DlyReg} (hne : .dly g ≠ r) :
    g.get t.dly = g.get s.dly := by
  cases h with
  | dlyFs | dlySec | dlyGain | dlyInput => cases g <;> trivial
  | _ => rfl

theorem WriteEffect.ain_other (h : WriteEffect s v r t) {ch : Fin 16} (hne : .ain ch ≠ r) :
    t.ain[ch.val] = s.ain[ch.val] := by
  cases h with
  | ain ch' => exact Vector.getElem_set_ne ch'.isLt ch.isLt fun heq => hne (by rw [Fin.ext heq])
  | _ => rfl

/-- A write changes nothing of a sensor but COLCH. -/
theorem WriteEffect.sns_eq (h : WriteEffect s v r t) (j : Fin 2) :
    t.sns[j.val] = { s.sns[j.val] with colch := (t.sns[j.val]).colch } := by
  cases h with
  | colch sn c =>
    by_cases hj : sn = j
    · subst hj
      rw [State.setSns_self]
    · rw [State.setSns_other sn j hj]
  | _ => rfl

theorem WriteEffect.calState_eq (h : WriteEffect s v r t) (j : Fin 2) :
    (t.sns[j.val]).calState = (s.sns[j.val]).calState := by
  rw [h.sns_eq j]

theorem WriteEffect.colch_other (h : WriteEffect s v r t) {j : Fin 2} {c : Fin 16} (hne : .colch j c ≠ r) :
    (t.sns[j.val]).colch[c.val] = (s.sns[j.val]).colch[c.val] := by
  cases h with
  | colch sn c' =>
    by_cases hj : sn = j
    · subst hj
      rw [State.setSns_self]
      exact Vector.getElem_set_ne c'.isLt c.isLt fun heq => hne (by rw [Fin.ext heq])
    · rw [State.setSns_other sn j hj]
  | _ => rfl

/-- Every register but STATUS and the one written reads as before. -/
theorem WriteEffect.read_other (h : WriteEffect s v r t) {r' : Reg} (hne : r' ≠ r) (hstatus : r' ≠ .status) :
    readReg r' t = readReg r' s := by
  obtain ⟨-, -, -, hbuild, -⟩ := h.frame
  cases r' with
  | status => exact absurd rfl hstatus
  | osc j g => exact h.osc_other hne
  | flt j g => exact h.flt_other hne
  | dly g => exact h.dly_other hne
  | ain ch => exact h.ain_other hne
  | colch j c => simp only [readReg, hbuild, h.colch_other hne]
  | sns j g => rw [readReg, readReg, h.sns_eq j]; cases g <;> rfl
  | min j c => simp only [readReg, hbuild]; rw [h.sns_eq j]
  | max j c => simp only [readReg, hbuild]; rw [h.sns_eq j]
  | grid j c r => simp only [readReg, hbuild]; rw [h.sns_eq j]
  | hwcfg => rw [readReg, hbuild, readReg]
  | seqState =>
    have h0 : t.sns[0].calState = s.sns[0].calState := h.calState_eq 0
    have h1 : t.sns[1].calState = s.sns[1].calState := h.calState_eq 1
    simp only [readReg, seqStateWord, h0, h1, h.row_eq]
  | carBase =>
    cases h with
    | carBase => exact absurd rfl hne
    | _ => rfl
  | calDur =>
    cases h with
    | calDur => exact absurd rfl hne
    | _ => rfl
  | _ => cases h <;> rfl

end Writes

/-- Settles O10: the write is one of the effects of `WriteEffect`, and each clause is read off it. -/
theorem registerWriteStoresOneRegister : Obligations.RegisterWriteStoresOneRegister := by
  intro s r v rest hcmd hstatus hport
  have heffect := writeReg_effect r v { s with port := rest }
  refine ⟨_, step_writeReg hcmd hport, ?_⟩
  generalize htarget : writeReg r v { s with port := rest } = t at heffect ⊢
  obtain ⟨hrest, hmemL, hmemR, hbuild, hread⟩ := heffect.frame
  refine ⟨hrest, hmemL, hmemR, hbuild, hread, heffect.read_self, ?_, ?_, heffect.eq_of_readOnly,
    fun r' hne hst => (heffect.read_other hne hst).trans (readReg_port r' s rest), ?_,
    heffect.status_eq hstatus, ?_, ?_, ?_, ?_, ?_, ?_, ?_, ?_, ?_, ?_, ?_, ?_, ?_, ?colch⟩
  · rintro sn c rfl hc; exact heffect.read_colch hc
  · rintro sn c rfl hc; exact heffect.eq_of_colch hc
  · rintro k rfl; rw [← htarget]; rfl
  case colch =>
    rintro sn c rfl hc
    refine ⟨Fin.ofNat 16 v.toNat, rfl, ?_⟩
    rw [← htarget, writeReg, writeColch, if_pos hc]
    rfl
  all_goals
    intros
    subst r
    exact htarget.symm

/-! ## One event of the port -/

/-- The ways an event of the outside takes `s` to its next state. -/
inductive EventEffect (s : State) : HostEvent → State → Prop
  | read (idx : BitVec 11) : EventEffect s (.read idx) { s with readData := readWord idx s }
  | ignored (idx : BitVec 11) (v : Word) : EventEffect s (.write idx v) s
  | register (idx : BitVec 11) (v : Word) (r : Reg) (t : State) (heffect : WriteEffect s v r t) :
      EventEffect s (.write idx v) t
  | illegal (idx : BitVec 11) (v : Word) : EventEffect s (.write idx v) (raise .errIllegal v s)
  | command (idx : BitVec 11) (v : Word) (i : Instr) (t : State) (heffect : CommandEffect s i t) :
      EventEffect s (.write idx v) t
  | reset : EventEffect s .reset (resetInput s)

theorem executeCommand_effect {s t : State} (idx : BitVec 11) {v : Word} (h : executeCommand v s = .next t) :
    EventEffect s (.write idx v) t := by
  cases hdecode : decode s.build.dim v with
  | error e =>
    rw [executeCommand_illegal v e s hdecode] at h
    cases h
    exact .illegal idx v
  | ok i =>
    rw [executeCommand_ok v i s hdecode] at h
    exact .command idx v i t (exec_effect h)

/-- A step is idle or serves the oldest event. -/
theorem step_effect {s t : State} (h : step s = .next t) :
    (s.port = [] ∧ t = s) ∨ ∃ e rest, s.port = e :: rest ∧ EventEffect { s with port := rest } e t := by
  rcases step_cases s with ⟨hport, hs⟩ | ⟨rest, ⟨idx, hport, hs⟩ | ⟨hport, hs⟩ | ⟨idx, v, hport, -, hs⟩ |
    ⟨idx, v, r, hport, -, -, hs⟩ | ⟨idx, v, hport, -, hs⟩⟩ <;> rw [hs] at h
  · cases h; exact .inl ⟨hport, rfl⟩
  · cases h; exact .inr ⟨_, rest, hport, .read idx⟩
  · cases h; exact .inr ⟨_, rest, hport, .reset⟩
  · cases h; exact .inr ⟨_, rest, hport, .ignored idx v⟩
  · cases h; exact .inr ⟨_, rest, hport, .register idx v r _ (writeReg_effect r v _)⟩
  · exact .inr ⟨_, rest, hport, executeCommand_effect idx h⟩

/-- A property that every event but a reset keeps, and that does not look at the port, is kept by every step that
serves no reset. -/
theorem step_keeps_unless_reset {P : State → Prop} {s t : State} (hs : P s)
    (hport : ∀ rest, P s → P { s with port := rest })
    (hevent : ∀ e u t, e ≠ .reset → EventEffect u e t → P u → P t)
    (hstep : step s = .next t) (hreset : s.port.head? ≠ some .reset) : P t := by
  rcases step_effect hstep with ⟨-, rfl⟩ | ⟨e, rest, he, heffect⟩
  · exact hs
  · refine hevent e _ t (fun hr => hreset ?_) heffect (hport rest hs)
    rw [he, hr, List.head?_cons]

theorem WriteEffect.oscCfg_kept {s t : State} {v : Word} {r : Reg} (h : WriteEffect s v r t) {k : Fin 2}
    (hcfg : s.status.oscCfg[k.val] = true) : t.status.oscCfg[k.val] = true := by
  cases h with
  | oscFs j => simp [Vector.getElem_set, hcfg]
  | _ => exact hcfg

theorem EventEffect.oscCfg_kept {s t : State} {e : HostEvent} (h : EventEffect s e t) (he : e ≠ .reset) {k : Fin 2}
    (hcfg : s.status.oscCfg[k.val] = true) : t.status.oscCfg[k.val] = true := by
  cases h with
  | register _ _ _ _ heffect => exact heffect.oscCfg_kept hcfg
  | illegal => exact hcfg
  | command _ _ _ _ heffect =>
    obtain ⟨-, -, -, -, -, -, -, -, -, -, hkept⟩ := heffect.host_eq
    rw [hkept, hcfg]
  | reset => exact absurd rfl he
  | _ => exact hcfg

/-- Settles O12: the offset is that of OSCk.FS, and no event but a reset clears a set OSCk_CFG. -/
theorem oscillatorRateWriteConfigures : Obligations.OscillatorRateWriteConfigures := by
  refine ⟨fun s k v rest hport => ?_, fun s t k hcfg hstep hreset => ?_⟩
  · rw [Nat.add_comm] at hport
    exact step_writeReg (r := .osc k .fs) (by simp) hport
  · exact step_keeps_unless_reset (P := fun u => u.status.oscCfg[k.val] = true) hcfg (fun _ h => h)
      (fun _ _ _ he heffect h => heffect.oscCfg_kept he h) hstep hreset

/-- A Done sensor with the calibration of `x` (R60). -/
def DoneAs (x : Sensor) (sn : Fin 2) (s : State) : Prop :=
  (s.sns[sn.val]).calState = .done ∧ (s.sns[sn.val]).calCnt = x.calCnt ∧ (s.sns[sn.val]).mins = x.mins ∧
    (s.sns[sn.val]).maxs = x.maxs

theorem EventEffect.doneAs_kept {s t : State} {e : HostEvent} (h : EventEffect s e t) (he : e ≠ .reset) {x : Sensor}
    {sn : Fin 2} (hdone : DoneAs x sn s) : DoneAs x sn t := by
  obtain ⟨hstate, hcnt, hmins, hmaxs⟩ := hdone
  cases h with
  | register _ _ _ _ heffect =>
    rw [DoneAs, heffect.sns_eq sn]
    exact ⟨hstate, hcnt, hmins, hmaxs⟩
  | command _ _ _ _ heffect =>
    obtain ⟨hstate', hcnt', -, hmins', hmaxs'⟩ := heffect.done_calibration hstate
    exact ⟨hstate'.trans hstate, hcnt'.trans hcnt, hmins'.trans hmins, hmaxs'.trans hmaxs⟩
  | reset => exact absurd rfl he
  | _ => exact ⟨hstate, hcnt, hmins, hmaxs⟩

/-- Settles O58: no event but a reset leaves Done. -/
theorem doneIsTerminal : Obligations.DoneIsTerminal := fun s t sn hdone hstep hreset =>
  step_keeps_unless_reset (P := DoneAs (s.sns[sn.val]) sn) ⟨hdone, rfl, rfl, rfl⟩ (fun _ h => h)
    (fun _ _ _ he heffect h => heffect.doneAs_kept he h) hstep hreset

end Sys2Proof.Machine
end

section
/-!
The invariant (10_state.md R49, R55, R60 to R64, 20_memory.md R101, 42_delay.md R263): the writes of one unit keep it
under that unit's condition, and every effect of a step is such writes.
-/

namespace Sys2Proof.Machine

/-! ## A sensor -/

section Sensor

variable {b : Build} {x : Sensor}

theorem Sensor.raiseAll_fge {ain a : Vector Word 16} (ha : ∀ c : Fin 16, fge a[c.val] ZERO = true) (c : Fin 16) :
    fge (x.raiseAll b ain a)[c.val] ZERO = true := by
  rw [Sensor.raiseAll_get]
  split
  next hraised => exact fge_trans (fge_of_fgt hraised.2) (ha c)
  next => exact ha c

theorem Sensor.raiseAll_unused {ain a : Vector Word 16} {c : Fin 16} (hc : b.dim ≤ c.val) (ha : a[c.val] = 0) :
    (x.raiseAll b ain a)[c.val] = 0 := by
  rw [Sensor.raiseAll_get, if_neg fun hraised => absurd hraised.1 (not_lt.2 hc), ha]

/-- A tick of the minima ends in the phase of the minima or of the maxima. -/
theorem Sensor.Inv.tickMinima (h : x.Inv b) (hphase : x.calState = .idle ∨ x.calState = .measuringMinima)
    (ain : Vector Word 16) (dur : Word) :
    ({ x with mins := x.raiseAll b ain x.mins }.countTick dur .measuringMinima .measuringMaxima).Inv b := by
  have hsampled : x.calState ≠ .done := by rcases hphase with hphase | hphase <;> simp [hphase]
  unfold Sensor.countTick
  split
  all_goals exact {
    h with
    mins := Sensor.raiseAll_fge h.mins
    count := by simp
    idleMins := by simp
    earlyMaxs := fun _ => h.earlyMaxs hphase
    unsampled := fun _ => h.unsampled hsampled
    unusedMins := fun c hc => Sensor.raiseAll_unused hc (h.unusedMins c hc) }

/-- A tick of the maxima ends in the phase of the maxima or Done with the counter at 0. -/
theorem Sensor.Inv.tickMaxima (h : x.Inv b) (hphase : x.calState = .measuringMaxima) (ain : Vector Word 16)
    (dur : Word) :
    ({ x with maxs := x.raiseAll b ain x.maxs }.countTick dur .measuringMaxima .done).Inv b := by
  unfold Sensor.countTick
  split
  all_goals exact {
    h with
    maxs := Sensor.raiseAll_fge h.maxs
    count := by simp
    idleMins := by simp
    earlyMaxs := by simp
    unsampled := fun _ => h.unsampled (by simp [hphase])
    unusedMaxs := fun c hc => Sensor.raiseAll_unused hc (h.unusedMaxs c hc) }

theorem Sensor.Inv.tick (h : x.Inv b) (dur : Word) (ain : Vector Word 16) : (x.tick b dur ain).Inv b := by
  unfold Sensor.tick
  split
  next hphase => exact h.tickMinima (.inl hphase) ain dur
  next hphase => exact h.tickMinima (.inr hphase) ain dur
  next hphase => exact h.tickMaxima hphase ain dur
  next => exact h

/-- One column changes the grid, and the peak when the value exceeds it (R321). -/
theorem Sensor.sampleColumn_cases (ain : Vector Word 16) (er : Fin 16) (x : Sensor) (c : Fin 16) :
    ∃ g v, x.sampleColumn ain er c = { x with grid := g } ∨
      fgt v x.peakVal = true ∧
        x.sampleColumn ain er c = { x with grid := g, peakVal := v, peakCol := c, peakRow := er } := by
  refine ⟨(x.setCell c er (x.normalize c (x.reading ain c))).grid, x.normalize c (x.reading ain c), ?_⟩
  unfold Sensor.sampleColumn
  dsimp only
  split
  next hpeak => exact .inr ⟨hpeak, rfl⟩
  next => exact .inl rfl

/-- A column inside the matrix, sampled in Done, keeps the sensor's invariant. -/
theorem Sensor.Inv.sampleColumn (h : x.Inv b) (hdone : x.calState = .done) (ain : Vector Word 16) {er c : Fin 16}
    (her : er.val < b.dim) (hc : c.val < b.dim) : (x.sampleColumn ain er c).Inv b := by
  have hgrid : ∀ a r : Fin 16, b.dim ≤ a.val ∨ b.dim ≤ r.val →
      (((x.sampleColumn ain er c).grid)[a.val])[r.val] = 0 := by
    intro a r hout
    rw [Sensor.sampleColumn_grid, if_neg, h.unusedGrid a r hout]
    rintro ⟨rfl, rfl⟩
    omega
  obtain ⟨g, v, heq | ⟨hpeak, heq⟩⟩ := Sensor.sampleColumn_cases ain er x c <;> rw [heq] at hgrid ⊢
  · exact { h with
      unsampled := fun hnot => absurd hdone hnot
      unusedGrid := hgrid }
  · exact { h with
      peakCol := hc
      peakRow := her
      peakVal := fge_trans (fge_of_fgt hpeak) h.peakVal
      unsampled := fun hnot => absurd hdone hnot
      unusedGrid := hgrid }

theorem Sensor.sampleColumn_calState (ain : Vector Word 16) (er : Fin 16) (x : Sensor) (c : Fin 16) :
    (x.sampleColumn ain er c).calState = x.calState := by
  obtain ⟨_, _, _, _, heq⟩ := Sensor.sampleColumn_frame ain er x c
  rw [heq]

theorem Sensor.Inv.sample (h : x.Inv b) (hdone : x.calState = .done) (ain : Vector Word 16) (row : ℕ) :
    (x.sample b ain row).Inv b := by
  have hboth : (x.sample b ain row).Inv b ∧ (x.sample b ain row).calState = .done := by
    refine Sensor.sample_induct (P := fun y => y.Inv b ∧ y.calState = .done) b ain row x ⟨h, hdone⟩ ?_
    rintro y c hc ⟨hy, hydone⟩
    exact ⟨hy.sampleColumn hydone ain (effectiveRow_lt b row) hc,
      (Sensor.sampleColumn_calState _ _ y c).trans hydone⟩
  exact hboth.1

/-- The tracker's reset and a new position, in Done, keep the sensor's invariant. -/
theorem Sensor.Inv.resolved (h : x.Inv b) (hdone : x.calState = .done) (px py pz : Word) :
    Sensor.Inv b { x with posX := px, posY := py, posZ := pz, peakVal := ZERO, peakCol := 0, peakRow := 0 } := by
  have hdim : 0 < b.dim := by have := b.dim_ge; omega
  exact { h with
    peakCol := hdim
    peakRow := hdim
    peakVal := fge_zero_zero
    unsampled := fun hnot => absurd hdone hnot }

theorem Sensor.Inv.setColch (h : x.Inv b) {c : Fin 16} (hc : c.val < b.dim) (n : Fin 16) :
    Sensor.Inv b { x with colch := x.colch.set c.val n c.isLt } := by
  refine { h with unusedColch := fun d hd => ?_ }
  exact (Vector.getElem_set_ne c.isLt d.isLt (by omega)).trans (h.unusedColch d hd)

theorem Sensor.Inv.reset (b : Build) (sn : ℕ) : (Sensor.reset b sn).Inv b := by
  have hdim : 0 < b.dim := by have := b.dim_ge; omega
  exact {
    peakCol := hdim
    peakRow := hdim
    peakVal := fge_zero_zero
    mins := fun c => by rw [Sensor.reset, Vector.getElem_replicate]; exact fge_zero_zero
    maxs := fun c => by rw [Sensor.reset, Vector.getElem_replicate]; exact fge_zero_zero
    count := fun _ => rfl
    idleMins := fun _ => rfl
    earlyMaxs := fun _ => rfl
    unsampled := fun _ => ⟨rfl, rfl, rfl, rfl, rfl, rfl, rfl⟩
    unusedMins := fun c _ => by simp [Sensor.reset]
    unusedMaxs := fun c _ => by simp [Sensor.reset]
    unusedColch := fun c hc => by simp [Sensor.reset, resetColch, not_lt.2 hc]
    unusedGrid := fun c r _ => by simp [Sensor.reset] }

end Sensor

/-! ## The delay -/

theorem Delay.InRange.advance {d : Delay} (h : d.InRange) (p : Word) : (d.advance p).toNat < d.cap.toNat :=
  (d.advance_toNat p h.capPos).2

/-- A capacity that DLY_CONFIG accepts is inside the memory (R260). -/
theorem Delay.plan_cap {d : Delay} {cap len : ℤ} (h : d.plan = some (cap, len)) : 1 ≤ cap ∧ cap ≤ Config.dlyDepth := by
  unfold Delay.plan at h
  dsimp only at h
  split_ifs at h
  cases h
  omega

theorem Delay.configured_inRange (d : Delay) {cap : ℤ} (len : ℤ) (hcap : 1 ≤ cap ∧ cap ≤ Config.dlyDepth) :
    (d.configured cap len).InRange := by
  have hdepth : Config.dlyDepth = 65536 := rfl
  have htoNat : ∀ z : ℤ, 0 ≤ z → z ≤ Config.dlyDepth → (BitVec.ofInt 32 z).toNat = z.toNat := by
    intro z hz hz'
    rw [BitVec.toNat_ofInt]
    omega
  have hcapNat := htoNat cap (by omega) hcap.2
  have hnonneg : 0 ≤ (0 - len) % cap := Int.emod_nonneg _ (by omega)
  have hlt : (0 - len) % cap < cap := Int.emod_lt_of_pos _ (by omega)
  have hrpNat := htoNat ((0 - len) % cap) hnonneg (by omega)
  have hwp : (0 : Word).toNat = 0 := rfl
  constructor <;> simp only [Delay.configured, hcapNat, hrpNat, hwp] <;> omega

/-! ## The whole state -/

section State

variable {s : State}

theorem State.Inv.withPort (h : s.Inv) (rest : List HostEvent) : State.Inv { s with port := rest } := { h with }

theorem State.Inv.withReadData (h : s.Inv) (v : Word) : State.Inv { s with readData := v } := { h with }

theorem State.Inv.raise (h : s.Inv) (c : Condition) (w : Word) : (raise c w s).Inv := by
  cases c <;> exact { h with }

theorem State.Inv.withOrder (h : s.Inv) (order : Bool) (errCmd : Word) :
    State.Inv { s with status := { s.status with errOrder := order }, errCmd := errCmd } := { h with }

theorem State.Inv.noteDegen (h : s.Inv) (met : Bool) : (noteDegen met s).Inv := { h with }

theorem State.Inv.clear (h : s.Inv) (v : Word) : (s.setStatus (s.status.clear v)).Inv := { h with }

theorem State.Inv.setFm (h : s.Inv) (f : Fm) : (s.setFm f).Inv := { h with }

theorem State.Inv.setFlt (h : s.Inv) (i : Fin 8) (f : Filter) : (s.setFlt i f).Inv := { h with }

theorem State.Inv.setAin (h : s.Inv) (ch : Fin 16) (v : Word) : (s.setAin ch v).Inv := { h with }

theorem State.Inv.setCalDur (h : s.Inv) (v : Word) : (s.setSeq { s.seq with calDur := v }).Inv := { h with }

theorem State.Inv.setSeq (h : s.Inv) {q : Seq} (hrow : q.row.val < s.build.dim)
    (hdone : ∀ sn : Fin 2, (s.sns[sn.val]).calState = .done) : (s.setSeq q).Inv :=
  { h with
    row := hrow
    sequenced := fun _ => ⟨hdone 0, hdone 1⟩ }

theorem State.Inv.setOsc (h : s.Inv) {k : Fin 2} {o : Osc}
    (ho : s.status.oscCfg[k.val] = false → o.fs = 0 ∧ o.phase = 0 ∧ o.out = 0) : (s.setOsc k o).Inv := by
  refine { h with oscillator := fun j hcfg => ?_ }
  by_cases hj : k = j
  · subst hj
    rw [State.setOsc_self]
    exact ho hcfg
  · rw [State.setOsc_other k j hj]
    exact h.oscillator j hcfg

/-- Setting OSCk_CFG lifts the condition on oscillator k. -/
theorem State.Inv.setOscFs (h : s.Inv) (k : Fin 2) (v : Word) :
    ((s.setOsc k { s.osc[k.val] with fs := v }).setStatus
      { s.status with oscCfg := s.status.oscCfg.set k.val true k.isLt }).Inv := by
  refine { h with oscillator := fun j hcfg => ?_ }
  have hj : k ≠ j := by
    rintro rfl
    simp at hcfg
  rw [State.setStatus_osc, State.setOsc_other k j hj]
  refine h.oscillator j ?_
  simpa [Vector.getElem_set_ne _ _ (Fin.val_ne_of_ne hj)] using hcfg

/-- The host's operands of the delay are free. -/
theorem State.Inv.setDlyOperands (h : s.Inv) (fs sec gain input : Word) :
    (s.setDly { s.dly with fs := fs, sec := sec, gain := gain, input := input }).Inv := by
  refine { h with delay := fun hcfg => ?_, delayUnconfigured := fun hcfg => ?_ }
  · obtain ⟨hpos, hmax, hwpL, hrpL, hwpR, hrpR⟩ := h.delay hcfg
    exact ⟨hpos, hmax, hwpL, hrpL, hwpR, hrpR⟩
  · obtain ⟨hphase, hL, hR, hdly⟩ := h.delayUnconfigured hcfg
    refine ⟨hphase, hL, hR, ?_⟩
    rw [State.setDly_dly, hdly]

theorem State.setSns_done {sn : Fin 2} {x : Sensor}
    (hx : (s.sns[sn.val]).calState = .done → x.calState = .done) {j : Fin 2}
    (hj : (s.sns[j.val]).calState = .done) : ((s.setSns sn x).sns[j.val]).calState = .done := by
  by_cases hsn : sn = j
  · subst hsn
    rw [State.setSns_self]
    exact hx hj
  · rw [State.setSns_other sn j hsn]
    exact hj

theorem State.Inv.setSns (h : s.Inv) {sn : Fin 2} {x : Sensor} (hx : x.Inv s.build)
    (hdone : (s.sns[sn.val]).calState = .done → x.calState = .done) : (s.setSns sn x).Inv := by
  refine { h with sequenced := fun hseq => ?_, sensor := fun j => ?_ }
  · obtain ⟨h0, h1⟩ := h.sequenced hseq
    exact ⟨State.setSns_done hdone (j := 0) h0, State.setSns_done hdone (j := 1) h1⟩
  · by_cases hj : sn = j
    · subst hj
      rwa [State.setSns_self]
    · rw [State.setSns_other sn j hj]
      exact h.sensor j

theorem State.Inv.resetOf (b : Build) : (State.resetOf b).Inv where
  memL := (DelayMem.wf_reset b).1
  memR := (DelayMem.wf_reset b).2
  delay hcfg := by cases hcfg
  delayUnconfigured _ := ⟨rfl, rfl, rfl, rfl⟩
  oscillator k _ := by simp [State.resetOf, Osc.reset]
  row := by have := b.dim_ge; simp only [State.resetOf, Seq.reset, Fin.val_zero]; omega
  sequenced hseq := by simp [State.resetOf, Seq.reset] at hseq
  sensor sn := by simpa [State.resetOf] using Sensor.Inv.reset b sn.val

/-! ## Commands -/

theorem State.Inv.fmAdvance (h : s.Inv) (hcfg : ∀ k : Fin 2, s.status.oscCfg[k.val] = true) : (fmAdvance s).Inv := by
  obtain ⟨_, _, heq⟩ := fmAdvance_frame s
  rw [heq]
  exact { h with oscillator := fun k hk => by simp [hcfg k] at hk }

theorem State.Inv.configured (h : s.Inv) {cap len : ℤ} (hplan : s.dly.plan = some (cap, len)) :
    ((s.setDly (s.dly.configured cap len)).setStatus { s.status with dlyPhase := false, dlyCfg := true }).Inv :=
  { h with
    delay := fun _ => s.dly.configured_inRange len (Delay.plan_cap hplan)
    delayUnconfigured := fun hcfg => by cases hcfg }

theorem State.Inv.renderLeft (h : s.Inv) (hcfg : s.status.dlyCfg = true) : (renderLeft s).Inv := by
  have hadvance := (h.delay hcfg).advance
  obtain ⟨hpos, hmax, hwpL, hrpL, hwpR, hrpR⟩ := h.delay hcfg
  exact { h with
    memL := DelayMem.wf_write _ _ _ (hwpL.trans_le hmax) h.memL
    memR := DelayMem.wf_write _ _ _ (hwpR.trans_le hmax) h.memR
    delay := fun _ => ⟨hpos, hmax, hwpL, hadvance _, hadvance _, hrpR⟩
    delayUnconfigured := fun hnot => by cases hcfg.symm.trans hnot }

theorem State.Inv.renderRight (h : s.Inv) (hcfg : s.status.dlyCfg = true) : (renderRight s).Inv := by
  have hadvance := (h.delay hcfg).advance
  obtain ⟨hpos, hmax, hwpL, hrpL, hwpR, hrpR⟩ := h.delay hcfg
  exact { h with
    memL := DelayMem.wf_write _ _ _ (hwpL.trans_le hmax) h.memL
    delay := fun _ => ⟨hpos, hmax, hadvance _, hrpL, hwpR, hadvance _⟩
    delayUnconfigured := fun hnot => by cases hcfg.symm.trans hnot }

theorem State.Inv.tick (h : s.Inv) (sn : Fin 2) : (tick sn s).Inv :=
  h.setSns ((h.sensor sn).tick _ _) fun hdone => by rw [Sensor.tick_done _ _ _ _ hdone, hdone]

theorem State.Inv.sampleRow (h : s.Inv) {sn : Fin 2} (hdone : (s.sns[sn.val]).calState = .done) (row : ℕ) :
    (sampleRow sn row s).Inv :=
  h.setSns ((h.sensor sn).sample hdone _ row) fun _ => by rw [Sensor.sample_calState, hdone]

theorem State.Inv.resolve (h : s.Inv) {sn : Fin 2} (hdone : (s.sns[sn.val]).calState = .done) :
    (resolve sn s).Inv :=
  ((((h.setFlt _ _).setFlt _ _).setFlt _ _).noteDegen _).setSns ((h.sensor sn).resolved hdone _ _ _) fun _ => hdone

/-- A sampling frame samples both sensors, and after the last row resolves both and starts over (R310). -/
theorem State.Inv.samplingFrame (h : s.Inv) (hdone : ∀ sn : Fin 2, (s.sns[sn.val]).calState = .done) :
    (samplingFrame s).Inv := by
  have hdone0 : ∀ sn : Fin 2, ((Machine.sampleRow 0 s.seq.row.val s).sns[sn.val]).calState = .done :=
    fun sn => (sampleRow_calibration 0 _ s sn).1.trans (hdone sn)
  have hdone1 : ∀ sn : Fin 2,
      ((Machine.sampleRow 1 s.seq.row.val (Machine.sampleRow 0 s.seq.row.val s)).sns[sn.val]).calState = .done :=
    fun sn => (sampleRow_calibration 1 _ _ sn).1.trans (hdone0 sn)
  have hsampled := (h.sampleRow (hdone 0) s.seq.row.val).sampleRow (hdone0 1) s.seq.row.val
  have hdim := s.build.dim_ge
  have hdim' := s.build.dim_le
  have hrow := h.row
  unfold Machine.samplingFrame
  dsimp only
  split
  next =>
    have hdone2 := fun sn => (resolve_calibration 0 _ sn).1.trans (hdone1 sn)
    have hresolved := (hsampled.resolve (hdone1 0)).resolve (hdone2 1)
    refine hresolved.setSeq ?_ fun sn => (resolve_calibration 1 _ sn).1.trans (hdone2 sn)
    show 0 < s.build.dim
    omega
  next hlast =>
    refine hsampled.setSeq ?_ hdone1
    show (s.seq.row + 1).val < s.build.dim
    have hlt : s.seq.row < Fin.last 15 := Fin.lt_def.2 (by rw [Fin.val_last]; omega)
    rw [Fin.val_add_one_of_lt hlt]
    omega

end State

theorem CommandEffect.inv {s t : State} {i : Instr} (h : CommandEffect s i t) (hs : s.Inv) : t.Inv := by
  cases h with
  | nop => exact hs
  | raised _ c => exact hs.raise c _
  | oscStep k hcfg => exact hs.setOsc fun hnot => by cases hcfg.symm.trans hnot
  | fmStep hcfg => exact hs.fmAdvance hcfg
  | fltConfig n => exact hs.setFlt n _
  | fltApply n => exact hs.setFlt n _
  | dlyConfig cap len hplan => exact hs.configured hplan
  | renderLeft order errCmd hcfg => exact (hs.withOrder order errCmd).renderLeft hcfg
  | renderRight order errCmd hcfg => exact (hs.withOrder order errCmd).renderRight hcfg
  | frameTick sn => exact hs.tick sn
  | samplingFrame hdone => exact hs.samplingFrame hdone
  | snsTick sn => exact hs.tick sn
  | snsSample sn row hdone => exact hs.sampleRow hdone _
  | snsResolve sn hdone => exact hs.resolve hdone

theorem WriteEffect.inv {s t : State} {v : Word} {r : Reg} (h : WriteEffect s v r t) (hs : s.Inv) : t.Inv := by
  cases h with
  | kept => exact hs
  | status => exact hs.clear v
  | oscFreq k => exact hs.setOsc (hs.oscillator k)
  | oscAmp k => exact hs.setOsc (hs.oscillator k)
  | oscFs k => exact hs.setOscFs k v
  | carBase => exact hs.setFm _
  | fltFs i => exact hs.setFlt i _
  | fltFc i => exact hs.setFlt i _
  | fltInput i => exact hs.setFlt i _
  | dlyFs => exact hs.setDlyOperands v _ _ _
  | dlySec => exact hs.setDlyOperands _ v _ _
  | dlyGain => exact hs.setDlyOperands _ _ v _
  | dlyInput => exact hs.setDlyOperands _ _ _ v
  | calDur => exact hs.setCalDur v
  | ain ch => exact hs.setAin ch v
  | colch sn c hc => exact hs.setSns ((hs.sensor sn).setColch hc _) id

theorem EventEffect.inv {s t : State} {e : HostEvent} (h : EventEffect s e t) (hs : s.Inv) : t.Inv := by
  cases h with
  | read idx => exact hs.withReadData _
  | ignored => exact hs
  | register _ _ _ _ heffect => exact heffect.inv hs
  | illegal _ v => exact hs.raise _ v
  | command _ _ _ _ heffect => exact heffect.inv hs
  | reset => exact ((State.Inv.resetOf s.build).withPort s.port).withReadData s.readData

/-- Settles O50: a step is idle or the effect of one event, and every effect keeps the invariant unit by unit. -/
theorem stepKeepsInvariant : Obligations.StepKeepsInvariant := by
  intro s t hs hstep
  rcases step_effect hstep with ⟨-, rfl⟩ | ⟨_, rest, -, heffect⟩
  · exact hs
  · exact heffect.inv (hs.withPort rest)

/-- Settles O59: ROW is below DIM by the invariant, so the line of ROW is one of the matrix. -/
theorem exactlyOneRowIsDriven : Obligations.ExactlyOneRowIsDriven := by
  intro s hs r
  simp only [rowDrive, Bool.and_eq_true, decide_eq_true_eq, beq_iff_eq, and_iff_right_iff_imp]
  rintro rfl
  exact hs.row

end Sys2Proof.Machine
end

section
/-!
The delay memory and the words of no register (20_memory.md R101, R103, R104).
-/

namespace Sys2Proof.Machine

/-! ## Words that no register has -/

theorem regOf_filter_reserved (i : Fin 8) :
    regOf (BitVec.ofNat 11 ((0x0200 + 0x40 * i.val + 0x38) / 4)) = none ∧
    regOf (BitVec.ofNat 11 ((0x0200 + 0x40 * i.val + 0x3C) / 4)) = none := by
  revert i; decide

theorem regOf_from_0x1800 {idx : BitVec 11} (h : 0x1800 ≤ 4 * idx.toNat) : regOf idx = none := by
  unfold regOf
  dsimp only
  iterate 9 rw [if_neg (by omega)]

/-- An offset whose word is unmapped belongs to no register. -/
theorem Reg.offset_ne {r : Reg} {off : ℕ} (h : regOf (BitVec.ofNat 11 (off / 4)) = none) : r.offset ≠ off := by
  rintro rfl
  cases (regOf_offset r).symm.trans h

theorem Reg.offset_lt_0x1800 (r : Reg) : r.offset < 0x1800 := by
  by_contra hle
  have hword := offset_of_regOf (regOf_offset r)
  cases (regOf_offset r).symm.trans (regOf_from_0x1800 (by omega))

/-- Settles O9: a word of no register reads 0 and drops the write, and the map has no register at the reserved words
of a filter nor from 0x1800 on. -/
theorem unmappedReadsZeroAndIgnoresWrites : Obligations.UnmappedReadsZeroAndIgnoresWrites := by
  obtain ⟨-, hread, -⟩ := readHasNoSideEffect
  refine ⟨fun s idx rest hnone hport => hread s idx rest hport hnone, fun s idx v rest hnone hport => ?_,
    fun i r => ?_, Reg.offset_lt_0x1800⟩
  · rw [step_event s _ rest hport]
    exact hostWrite_unmapped idx v _ (regOf_eq_none hnone)
  · obtain ⟨h38, h3C⟩ := regOf_filter_reserved i
    exact ⟨Reg.offset_ne h38, Reg.offset_ne h3C⟩

/-! ## Renders that stop -/

theorem Delay.renderFault_of_cap_eq_zero {d : Delay} (h : d.cap = 0) (ps : List Word) :
    d.renderFault ps = some .delayCapacityZero := if_pos h

/-- The first of the pointers outside the memory is the one that the fault names. -/
theorem Delay.renderFault_of_pointer_outside {d : Delay} {ps : List Word} {p : Word} (hcap : d.cap ≠ 0) (hp : p ∈ ps)
    (hout : 65536 ≤ p.toNat) : ∃ n, 65536 ≤ n ∧ d.renderFault ps = some (.delayIndex n) := by
  have hfind : (ps.find? fun q => decide (Config.dlyDepth ≤ q.toNat)).isSome :=
    List.find?_isSome.2 ⟨p, hp, decide_eq_true hout⟩
  obtain ⟨q, hq⟩ := Option.isSome_iff_exists.1 hfind
  have hqout := List.find?_some hq
  exact ⟨q.toNat, of_decide_eq_true hqout, by rw [Delay.renderFault, if_neg hcap, hq]; rfl⟩

theorem execDlyRenderL_of_renderFault {s : State} {f : Fault} (hcfg : s.status.dlyCfg = true)
    (hf : s.dly.renderFault [s.dly.rpL, s.dly.wpL, s.dly.wpR] = some f) : exec .dlyRenderL s = .fault f := by
  simp [exec, execDlyRenderL, hcfg, hf]

theorem execDlyRenderR_of_renderFault {s : State} {f : Fault} (hcfg : s.status.dlyCfg = true)
    (hf : s.dly.renderFault [s.dly.rpR, s.dly.wpL] = some f) : exec .dlyRenderR s = .fault f := by
  simp [exec, execDlyRenderR, hcfg, hf]

/-- Settles O25: a capacity of 0 is looked for first, then each pointer the render uses. -/
theorem renderStopsOutsideMemory : Obligations.RenderStopsOutsideMemory := by
  intro s hcfg
  refine ⟨fun hcap => ?_, fun hcap p hp hout => ?_, fun hcap p hp hout => ?_⟩
  · have hfault := Delay.renderFault_of_cap_eq_zero hcap
    exact ⟨execDlyRenderL_of_renderFault hcfg (hfault _), execDlyRenderR_of_renderFault hcfg (hfault _)⟩
  · obtain ⟨n, hn, hfault⟩ := Delay.renderFault_of_pointer_outside hcap hp hout
    exact ⟨n, hn, execDlyRenderL_of_renderFault hcfg hfault⟩
  · obtain ⟨n, hn, hfault⟩ := Delay.renderFault_of_pointer_outside hcap hp hout
    exact ⟨n, hn, execDlyRenderR_of_renderFault hcfg hfault⟩

/-! ## The frame of the delay memory -/

theorem CommandEffect.dmem_eq {s t : State} {i : Instr} (h : CommandEffect s i t) (hleft : i ≠ .dlyRenderL)
    (hright : i ≠ .dlyRenderR) (ch : Channel) : t.dmem ch = s.dmem ch := by
  cases h with
  | renderLeft => exact absurd rfl hleft
  | renderRight => exact absurd rfl hright
  | samplingFrame =>
    obtain ⟨_, _, _, _, _, heq, -⟩ := samplingFrame_frame s
    rw [heq]; cases ch <;> rfl
  | _ => cases ch <;> rfl

/-- The right render writes the left channel alone (R262). -/
theorem CommandEffect.dmem_right_eq_of_renderRight {s t : State} (h : CommandEffect s .dlyRenderR t) :
    t.dmem .right = s.dmem .right := by
  cases h <;> rfl

/-- Settles O53: every other command leaves both channels as they are, and the right render the right one. -/
theorem onlyRendersChangeDelayMemory : Obligations.OnlyRendersChangeDelayMemory := by
  intro i s t hexec
  have heffect := exec_effect hexec
  refine ⟨fun hleft hright ch j => ?_, fun hi j => ?_⟩
  · exact State.memRead_congr t s ch j (heffect.dmem_eq hleft hright ch)
  · subst hi
    exact State.memRead_congr t s .right j heffect.dmem_right_eq_of_renderRight

end Sys2Proof.Machine
end

section
/-!
The encoding (30_encoding.md R130 to R134): the command word is its four fields, the decoder inverts the encoder on
well-formed commands and answers nothing else, and the masks of the opcode table are read field by field.
-/

namespace Sys2Proof.Machine

/-! ## The fields of the command word -/

section Fields

variable (opc rsv arg inst : BitVec 8)

theorem opcOf_append : opcOf (opc ++ rsv ++ arg ++ inst) = opc := by
  rw [opcOf, BitVec.extractLsb'_append_eq_of_le (by decide), BitVec.extractLsb'_append_eq_of_le (by decide),
    BitVec.extractLsb'_append_eq_of_le (by decide)]
  exact BitVec.extractLsb'_eq_self

theorem rsvOf_append : rsvOf (opc ++ rsv ++ arg ++ inst) = rsv := by
  rw [rsvOf, BitVec.extractLsb'_append_eq_of_le (by decide), BitVec.extractLsb'_append_eq_of_le (by decide)]
  exact BitVec.extractLsb'_append_eq_right

theorem argOf_append : argOf (opc ++ rsv ++ arg ++ inst) = arg := by
  rw [argOf, BitVec.extractLsb'_append_eq_of_le (by decide)]
  exact BitVec.extractLsb'_append_eq_right

theorem instOf_append : instOf (opc ++ rsv ++ arg ++ inst) = inst :=
  BitVec.extractLsb'_append_eq_right

@[simp] theorem opcOf_cmdWord : opcOf (cmdWord opc arg inst) = opc := opcOf_append opc 0 arg inst
@[simp] theorem rsvOf_cmdWord : rsvOf (cmdWord opc arg inst) = 0 :=
  Laws.EncodeReserved.cmdWord_rsv opc arg inst
@[simp] theorem argOf_cmdWord : argOf (cmdWord opc arg inst) = arg := argOf_append opc 0 arg inst
@[simp] theorem instOf_cmdWord : instOf (cmdWord opc arg inst) = inst := instOf_append opc 0 arg inst

end Fields

/-- The four fields of R130 are all of a word. -/
theorem fields_append (w : Word) : opcOf w ++ rsvOf w ++ argOf w ++ instOf w = w := by
  have hhigh : opcOf w ++ rsvOf w = w.extractLsb' 16 16 := BitVec.extractLsb'_append_extractLsb'_eq_extractLsb' rfl
  have hupper : w.extractLsb' 16 16 ++ argOf w = w.extractLsb' 8 24 :=
    BitVec.extractLsb'_append_extractLsb'_eq_extractLsb' rfl
  have hall : w.extractLsb' 8 24 ++ instOf w = w.extractLsb' 0 32 :=
    BitVec.extractLsb'_append_extractLsb'_eq_extractLsb' rfl
  rw [hhigh, hupper, hall, BitVec.extractLsb'_eq_self]

theorem append_eq_iff_fields {opc rsv arg inst : BitVec 8} {w : Word} :
    opc ++ rsv ++ arg ++ inst = w ↔ opcOf w = opc ∧ rsvOf w = rsv ∧ argOf w = arg ∧ instOf w = inst := by
  constructor
  · rintro rfl
    exact ⟨opcOf_append .., rsvOf_append .., argOf_append .., instOf_append ..⟩
  · rintro ⟨rfl, rfl, rfl, rfl⟩
    exact fields_append w

theorem cmdWord_eq_iff {opc arg inst : BitVec 8} {w : Word} :
    cmdWord opc arg inst = w ↔ opcOf w = opc ∧ rsvOf w = 0 ∧ argOf w = arg ∧ instOf w = inst :=
  append_eq_iff_fields

/-! ## The operands that the decoder reads -/

/-- A field that is the number of one of `n` units. -/
theorem eq_ofNat_val_iff {n : ℕ} (hn : n ≤ 2 ^ 8) {x : BitVec 8} {k : Fin n} :
    x = BitVec.ofNat 8 k.val ↔ x.toNat = k.val := by
  rw [BitVec.toNat_eq, BitVec.toNat_ofNat, Nat.mod_eq_of_lt (k.isLt.trans_le hn)]

theorem decodePlain_eq_ok_iff {w : Word} {i j : Instr} :
    decodePlain w i = .ok j ↔ i = j ∧ argOf w = 0 ∧ instOf w = 0 := by
  rw [decodePlain]
  split
  case isTrue h => simp [h]
  case isFalse h => exact ⟨nofun, fun hij => absurd hij.2 h⟩

/-- The decoder of a command whose INST selects one of `n` units: the model's `decodePair` and `decodeFilter`. -/
def decodeUnit {n : ℕ} (w : Word) (mk : Fin n → Instr) : Except Illegal Instr :=
  if h : argOf w = 0 ∧ (instOf w).toNat < n then .ok (mk ⟨(instOf w).toNat, h.2⟩) else .error .strayBits

theorem decodeUnit_eq_ok_iff {n : ℕ} (hn : n ≤ 2 ^ 8) {w : Word} {mk : Fin n → Instr} {j : Instr} :
    decodeUnit w mk = .ok j ↔ ∃ k, mk k = j ∧ argOf w = 0 ∧ instOf w = BitVec.ofNat 8 k.val := by
  simp only [decodeUnit, eq_ofNat_val_iff hn]
  split
  case isTrue h =>
    constructor
    · exact fun hok => ⟨⟨_, h.2⟩, Except.ok.inj hok, h.1, rfl⟩
    · rintro ⟨k, rfl, -, hk⟩
      simp only [hk]
  case isFalse h =>
    constructor
    · exact nofun
    · rintro ⟨k, -, harg, hk⟩
      exact absurd ⟨harg, hk ▸ k.isLt⟩ h

theorem decodePair_eq_ok_iff {w : Word} {mk : Fin 2 → Instr} {j : Instr} :
    decodePair w mk = .ok j ↔ ∃ k, mk k = j ∧ argOf w = 0 ∧ instOf w = BitVec.ofNat 8 k.val :=
  decodeUnit_eq_ok_iff (by decide)

theorem decodeFilter_eq_ok_iff {w : Word} {mk : Fin 8 → Instr} {j : Instr} :
    decodeFilter w mk = .ok j ↔ ∃ k, mk k = j ∧ argOf w = 0 ∧ instOf w = BitVec.ofNat 8 k.val :=
  decodeUnit_eq_ok_iff (by decide)

theorem decodeSample_eq_ok_iff {dim : ℕ} {w : Word} {j : Instr} : decodeSample dim w = .ok j ↔
    ∃ sn : Fin 2, .snsSample sn (argOf w) = j ∧ (argOf w).toNat < dim ∧ instOf w = BitVec.ofNat 8 sn.val := by
  simp only [decodeSample, eq_ofNat_val_iff (n := 2) (by decide)]
  split
  case isTrue hlt =>
    split
    case isTrue hrow =>
      constructor
      · exact fun hok => ⟨⟨_, hlt⟩, Except.ok.inj hok, hrow, rfl⟩
      · rintro ⟨sn, rfl, -, hsn⟩
        simp only [hsn]
    case isFalse hrow => exact ⟨nofun, fun ⟨_, _, h, _⟩ => absurd h hrow⟩
  case isFalse hlt => exact ⟨nofun, fun ⟨sn, _, _, hsn⟩ => absurd (hsn ▸ sn.isLt) hlt⟩

/-! ## From the command to its word and back -/

/-- Settles O1: the opcode of the word selects the command's row, and the row's operands are read back. -/
theorem decodeEncodeRoundTrip : Obligations.DecodeEncodeRoundTrip := by
  intro dim i hwf
  cases i with
  | nop | fmStep | dlyConfig | dlyRenderL | dlyRenderR | seqFrame => simp [encode, decode, decodePlain_eq_ok_iff]
  | oscStep _ | snsTick _ | snsResolve _ => simp [encode, decode, decodePair_eq_ok_iff]
  | fltConfig _ | fltApply _ => simp [encode, decode, decodeFilter_eq_ok_iff]
  | snsSample _ row =>
    have hrow : row.toNat < dim := of_decide_eq_true hwf
    simp [encode, decode, decodeSample_eq_ok_iff, hrow]

section Sound

variable {dim : ℕ} {w : Word} {opc : BitVec 8} {j : Instr} (hrsv : rsvOf w = 0) (hopc : opcOf w = opc)
include hrsv hopc

theorem encode_eq_of_decodePlain {i : Instr} (hi : encode i = cmdWord opc 0 0) (hwf : WellFormed dim i)
    (h : decodePlain w i = .ok j) : encode j = w ∧ WellFormed dim j := by
  obtain ⟨rfl, harg, hinst⟩ := decodePlain_eq_ok_iff.1 h
  exact ⟨hi.trans (cmdWord_eq_iff.2 ⟨hopc, hrsv, harg, hinst⟩), hwf⟩

theorem encode_eq_of_decodeUnit {n : ℕ} {mk : Fin n → Instr} (hn : n ≤ 2 ^ 8)
    (hmk : ∀ k, encode (mk k) = cmdWord opc 0 (BitVec.ofNat 8 k.val)) (hwf : ∀ k, WellFormed dim (mk k))
    (h : decodeUnit w mk = .ok j) : encode j = w ∧ WellFormed dim j := by
  obtain ⟨k, rfl, harg, hinst⟩ := (decodeUnit_eq_ok_iff hn).1 h
  exact ⟨(hmk k).trans (cmdWord_eq_iff.2 ⟨hopc, hrsv, harg, hinst⟩), hwf k⟩

end Sound

theorem encode_eq_of_decodeSample {dim : ℕ} {w : Word} {j : Instr} (hrsv : rsvOf w = 0) (hopc : opcOf w = 0x32)
    (h : decodeSample dim w = .ok j) : encode j = w ∧ WellFormed dim j := by
  obtain ⟨sn, rfl, hrow, hinst⟩ := decodeSample_eq_ok_iff.1 h
  exact ⟨cmdWord_eq_iff.2 ⟨hopc, hrsv, rfl, hinst⟩, decide_eq_true hrow⟩

/-- Settles O2: RSV, the opcode of the branch and the operands that it reads are the four fields of the word. -/
theorem decodedWordIsItsEncoding : Obligations.DecodedWordIsItsEncoding := by
  intro dim w i
  by_cases hrsv : rsvOf w = 0
  · -- The cases are the branches of `decode` in the order of the opcodes, between the two errors.
    fun_cases decode dim w
    case case1 h => exact absurd hrsv h
    case case2 hopc | case4 hopc | case7 hopc | case8 hopc | case9 hopc | case10 hopc =>
      exact encode_eq_of_decodePlain hrsv hopc rfl rfl
    case case3 hopc | case5 hopc | case6 hopc | case11 hopc | case13 hopc =>
      exact encode_eq_of_decodeUnit hrsv hopc (by decide) (fun _ => rfl) (fun _ => rfl)
    case case12 hopc => exact encode_eq_of_decodeSample hrsv hopc
    case case14 => exact nofun
  · rw [decode, if_pos hrsv]
    exact nofun

theorem decode_eq_ok_iff {dim : ℕ} {w : Word} {i : Instr} :
    decode dim w = .ok i ↔ encode i = w ∧ WellFormed dim i := by
  refine ⟨decodedWordIsItsEncoding dim w i, ?_⟩
  rintro ⟨rfl, hwf⟩
  exact decodeEncodeRoundTrip dim i hwf

/-! ## The masks of the opcode table -/

/-- The mask of a table row: OPC and RSV are fixed, ARG and INST where their masks say. -/
def rowMask (argMask instMask : BitVec 8) : Word := (0xFF : BitVec 8) ++ (0xFF : BitVec 8) ++ argMask ++ instMask

/-- A word meets the match of a row when its fields meet theirs. -/
theorem and_rowMask_eq_iff {opc argMask instMask : BitVec 8} {w : Word} :
    w &&& rowMask argMask instMask = cmdWord opc 0 0 ↔
      opcOf w = opc ∧ rsvOf w = 0 ∧ argOf w &&& argMask = 0 ∧ instOf w &&& instMask = 0 := by
  have hand : w &&& rowMask argMask instMask =
      (opcOf w &&& 0xFF) ++ (rsvOf w &&& 0xFF) ++ (argOf w &&& argMask) ++ (instOf w &&& instMask) := by
    rw [← BitVec.and_append, ← BitVec.and_append, ← BitVec.and_append, fields_append, rowMask]
  have hones (x : BitVec 8) : x &&& 0xFF = x := BitVec.and_allOnes
  rw [hand, hones, hones, eq_comm, cmdWord_eq_iff, opcOf_append, rsvOf_append, argOf_append, instOf_append]

/-- The bits of a field above its low `n` are 0 when its number is below `2 ^ n`. -/
theorem and_shiftLeft_allOnes_eq_zero_iff {n : ℕ} {x : BitVec 8} :
    x &&& (BitVec.allOnes 8 <<< n) = 0 ↔ x.toNat < 2 ^ n := by
  have hle : x.toNat / 2 ^ n * 2 ^ n < 2 ^ 8 := (Nat.div_mul_le_self _ _).trans_lt x.isLt
  rw [← BitVec.shiftLeft_ushiftRight, BitVec.toNat_eq, BitVec.toNat_shiftLeft, BitVec.toNat_ushiftRight,
    Nat.shiftRight_eq_div_pow, Nat.shiftLeft_eq, Nat.mod_eq_of_lt hle]
  simp [Nat.div_eq_zero_iff]

/-- INST holds the number `k` when its bits above the low `n` are 0 and the low `n` are `k`. -/
theorem instOf_eq_iff_masked {n : ℕ} (hn : n ≤ 8) (k : Fin (2 ^ n)) (w : Word) :
    instOf w = BitVec.ofNat 8 k.val ↔
      instOf w &&& BitVec.allOnes 8 <<< n = 0 ∧ (w.extractLsb' 0 n).toNat = k.val := by
  have hlow : (w.extractLsb' 0 n).toNat = (instOf w).toNat % 2 ^ n := by
    rw [instOf, BitVec.extractLsb'_toNat, BitVec.extractLsb'_toNat, Nat.mod_mod_of_dvd _ (Nat.pow_dvd_pow 2 hn)]
  rw [eq_ofNat_val_iff (Nat.pow_le_pow_right (by decide) hn), and_shiftLeft_allOnes_eq_zero_iff, hlow]
  constructor
  · exact fun hinst => ⟨hinst ▸ k.isLt, by rw [hinst, Nat.mod_eq_of_lt k.isLt]⟩
  · exact fun ⟨hlt, hmod⟩ => Nat.mod_eq_of_lt hlt ▸ hmod

section Rows

variable {dim : ℕ} {w : Word} {opc : BitVec 8}

/-- A row without operands: the mask is the whole word. -/
theorem decode_eq_ok_iff_plain (i : Instr) (hwf : WellFormed dim i) :
    decode dim w = .ok i ↔ w &&& BitVec.allOnes 32 = encode i := by
  rw [decode_eq_ok_iff, BitVec.and_allOnes, eq_comm, and_iff_left hwf]

/-- A row whose INST holds one of `2 ^ n` units. -/
theorem decode_eq_ok_iff_unit (n : ℕ) (i : Instr) (k : Fin (2 ^ n)) (hn : n ≤ 8)
    (hi : encode i = cmdWord opc 0 (BitVec.ofNat 8 k.val)) (hwf : WellFormed dim i) :
    decode dim w = .ok i ↔
      w &&& rowMask 0xFF (BitVec.allOnes 8 <<< n) = cmdWord opc 0 0 ∧ (w.extractLsb' 0 n).toNat = k.val := by
  have harg : argOf w &&& 0xFF = argOf w := BitVec.and_allOnes
  rw [decode_eq_ok_iff, hi, and_iff_left hwf, cmdWord_eq_iff, instOf_eq_iff_masked hn, and_rowMask_eq_iff, harg]
  simp only [and_assoc]

/-- The row of SNS_SAMPLE: ARG is free and its number is below DIM. -/
theorem decode_eq_ok_iff_sample (sn : Fin 2) (row : BitVec 8) :
    decode dim w = .ok (.snsSample sn row) ↔
      w &&& rowMask 0 (BitVec.allOnes 8 <<< 1) = cmdWord 0x32 0 0 ∧
        (w.extractLsb' 0 1).toNat = sn.val ∧ argOf w = row ∧ row.toNat < dim := by
  have hwf : WellFormed dim (.snsSample sn row) ↔ row.toNat < dim := decide_eq_true_iff
  have harg : argOf w &&& 0 = 0 := BitVec.and_zero
  rw [decode_eq_ok_iff, hwf, encode, cmdWord_eq_iff, instOf_eq_iff_masked (n := 1) (by decide) sn,
    and_rowMask_eq_iff, harg]
  simp only [and_assoc, true_and, and_left_comm]

end Rows

/-- Settles O3: a row has no operands, the number of a unit, or the operands of SNS_SAMPLE. -/
theorem opcodeTableSelects : Obligations.OpcodeTableSelects := by
  intro dim w
  exact ⟨decode_eq_ok_iff_plain .nop rfl,
    fun k => decode_eq_ok_iff_unit 1 (.oscStep k) k (by decide) rfl rfl,
    decode_eq_ok_iff_plain .fmStep rfl,
    fun i => decode_eq_ok_iff_unit 3 (.fltConfig i) i (by decide) rfl rfl,
    fun i => decode_eq_ok_iff_unit 3 (.fltApply i) i (by decide) rfl rfl,
    decode_eq_ok_iff_plain .dlyConfig rfl,
    decode_eq_ok_iff_plain .dlyRenderL rfl,
    decode_eq_ok_iff_plain .dlyRenderR rfl,
    decode_eq_ok_iff_plain .seqFrame rfl,
    fun sn => decode_eq_ok_iff_unit 1 (.snsTick sn) sn (by decide) rfl rfl,
    decode_eq_ok_iff_sample,
    fun sn => decode_eq_ok_iff_unit 1 (.snsResolve sn) sn (by decide) rfl rfl⟩

/-- Settles O4: the decoder evaluated on each word. -/
theorem familyWordsDecode : Obligations.FamilyWordsDecode := by
  unfold Obligations.FamilyWordsDecode
  decide

end Sys2Proof.Machine
end

section
/-!
The filter commands (40_filter.md R199 to R201): what each writes into its filter, and the NaN that a rate of zero puts
into the coefficients and the next output.
-/

namespace Sys2Proof.Machine

theorem execFltConfig_eq (i : Fin 8) (s : State) :
    exec (.fltConfig i) s = .next (s.setFlt i ((s.flt[i.val]).design (s.flt[i.val]).tangent)) := rfl

/-- The two writes of FLT_APPLY, the history and then OUT, are one write of the filter. -/
theorem execFltApply_eq (i : Fin 8) (s : State) :
    exec (.fltApply i) s = .next (s.setFlt i { (s.flt[i.val]).lpShift (s.flt[i.val]).input with
      output := (s.flt[i.val]).lpOut (s.flt[i.val]).input }) := by
  simp [exec, execFltApply, State.setFlt]

/-- Settles O20: the write of `Filter.design` with K = NUM_TAN(PI·FC / FS). -/
theorem fltConfigResult : Obligations.FltConfigResult := execFltConfig_eq

/-- Settles O21: the one write of `execFltApply_eq`, of the output and the shifted history. -/
theorem fltApplyResult : Obligations.FltApplyResult := execFltApply_eq

/-! ## A rate of zero -/

/-- Every word divided by a zero is a NaN or an infinity. -/
theorem fdiv_isZero_undefined (x : Word) {z : Word} (hz : isZero z = true) :
    isNaN (fdiv x z) = true ∨ isInf (fdiv x z) = true := by
  have hzf := isFinite_of_isZero hz
  cases hnan : isNaN x
  case true => rw [fdiv_of_isNaN (.inl hnan)]; exact .inl isNaN_qNaN
  cases hinf : isInf x
  case true => simp [fdiv, hnan, hinf, isNaN_of_isFinite hzf, isInf_of_isFinite hzf]
  rw [fdiv_of_zero_divisor ((isFinite_iff x).2 ⟨hnan, hinf⟩) hz]
  split
  · exact .inl isNaN_qNaN
  · exact .inr (isInf_finf _)

/-- K is NaN at a rate of zero: the tangent of a quotient by zero. -/
theorem Filter.tangent_of_zero_rate {f : Filter} (h : isZero f.fs = true) : f.tangent = qNaN :=
  numTan_of_undefined (fdiv_isZero_undefined _ h)

/-- A NaN K makes every coefficient NaN. -/
theorem Filter.design_qNaN (f : Filter) :
    f.design qNaN = { f with
      b0 := qNaN, b1 := qNaN, b2 := qNaN, a0 := qNaN, a1 := qNaN, a2 := qNaN
      x1 := ZERO, x2 := ZERO, y1 := ZERO, y2 := ZERO } := by
  simp [Filter.design, fadd_of_isNaN, fsub_of_isNaN, fmul_of_isNaN, isNaN_qNaN]

/-- A NaN A0 is no zero, so the filter is not bare, and the division by it is NaN. -/
theorem Filter.lpOut_of_isNaN_a0 {f : Filter} (h : isNaN f.a0 = true) (v : Word) : f.lpOut v = qNaN := by
  have hbare : feq f.a0 ZERO = false := by simp [feq, h]
  simp [Filter.lpOut, hbare, fdiv_of_isNaN (.inr h)]

/-- Settles O39: K is NaN, so each coefficient is, and A0 makes the output NaN. -/
theorem zeroRateFilterIsNaN : Obligations.ZeroRateFilterIsNaN := by
  intro i s hfs
  refine ⟨_, _, execFltConfig_eq i s, execFltApply_eq i _, ?_⟩
  rw [Filter.tangent_of_zero_rate hfs, State.setFlt_self, State.setFlt_self, Filter.design_qNaN]
  exact ⟨rfl, rfl, rfl, rfl, rfl, rfl, Filter.lpOut_of_isNaN_a0 isNaN_qNaN _⟩

end Sys2Proof.Machine
end

section
/-!
The oscillator commands (41_oscillator.md R229 to R232): what OSC_STEP and FM_STEP answer, and the range that the wrap
keeps the phase in.
-/

namespace Sys2Proof.Machine

/-! ## The two commands -/

theorem execOscStep_of_configured {k : Fin 2} {s : State} (h : s.status.oscCfg[k.val] = true) :
    exec (.oscStep k) s = .next (nextSample k s) := by
  simp [exec, execOscStep, h]

theorem execOscStep_of_unconfigured {k : Fin 2} {s : State} (h : s.status.oscCfg[k.val] = false) :
    exec (.oscStep k) s = .next (raise .errOrder (encode (.oscStep k)) s) := by
  simp [exec, execOscStep, h]

theorem execFmStep_of_configured {s : State} (h0 : s.status.oscCfg[0] = true) (h1 : s.status.oscCfg[1] = true) :
    exec .fmStep s = .next (fmAdvance s) := by
  simp [exec, execFmStep, h0, h1]

theorem execFmStep_of_unconfigured {s : State} (h : s.status.oscCfg[0] = false ∨ s.status.oscCfg[1] = false) :
    exec .fmStep s = .next (raise .errOrder (encode .fmStep) s) :=
  if_pos h

theorem encode_oscStep (k : Fin 2) : encode (.oscStep k) = 0x01000000 + BitVec.ofNat 32 k.val := by
  revert k; decide

/-- Settles O18: `nextSample` is the pseudocode of R229, and the word that ErrOrder records is the command's. -/
theorem oscStepResult : Obligations.OscStepResult := by
  refine fun k s => ⟨execOscStep_of_configured, fun h => ?_⟩
  rw [execOscStep_of_unconfigured h, encode_oscStep]
  rfl

/-- Settles O19: `fmAdvance` is the modulator's step, the write of the carrier's frequency and the carrier's step, and
neither step nor the write touches the configured bits. -/
theorem fmStepResult : Obligations.FmStepResult := by
  refine fun s => ⟨fun h0 h1 => ?_, execFmStep_of_unconfigured⟩
  exact ⟨_, _, execOscStep_of_configured h1, execOscStep_of_configured h0, execFmStep_of_configured h0 h1⟩

/-! ## Rounding between two words -/

theorem abs_toRat_lt_overflowBound {c : Word} (hc : isFinite c = true) : |toRat c| < overflowBound := by
  have hmax : magnitude (c.toNat % 2 ^ 31) ≤ magnitude (0x7F800000 - 1) :=
    magnitude_strictMono.monotone (Nat.le_sub_one_of_lt ((isFinite_iff_lt c).1 hc))
  rw [abs_toRat]
  linarith [magnitude_at_overflow.1]

/-- A number between two finite words is rounded to a finite word between them. -/
theorem RoundsTo.between {e : ℚ} {lo hi r : Word} (h : RoundsTo e r) (hlo : isFinite lo = true)
    (hhi : isFinite hi = true) (hle : toRat lo ≤ e) (hge : e ≤ toRat hi) :
    isFinite r = true ∧ toRat lo ≤ toRat r ∧ toRat r ≤ toRat hi := by
  have hlt : |e| < overflowBound := (abs_le_max_abs_abs hle hge).trans_lt
    (max_lt (abs_toRat_lt_overflowBound hlo) (abs_toRat_lt_overflowBound hhi))
  have hnearLo := h.nearest hlt lo hlo
  have hnearHi := h.nearest hlt hi hhi
  rw [abs_of_nonpos (sub_nonpos.2 hle)] at hnearLo
  rw [abs_of_nonneg (sub_nonneg.2 hge)] at hnearHi
  exact ⟨h.finite hlt, by linarith [neg_le_of_abs_le hnearLo], by linarith [le_of_abs_le hnearHi]⟩

theorem isFinite_iff_abs_fkey (x : Word) : isFinite x = true ↔ |fkey x| < 0x7F800000 := by
  rw [isFinite_iff_lt, fkey]
  split <;> simp only [abs_neg, Nat.abs_cast] <;> omega

/-- A word between two finite ones is finite. -/
theorem isFinite_of_fkey_between {a b c : Word} (ha : isFinite a = true) (hc : isFinite c = true)
    (hab : fkey a ≤ fkey b) (hbc : fkey b ≤ fkey c) : isFinite b = true := by
  rw [isFinite_iff_abs_fkey] at *
  exact (abs_le_max_abs_abs hab hbc).trans_lt (max_lt ha hc)

/-! ## The range of the phase -/

/-- The phase is in [0, TWO_PI). -/
def PhaseInRange (p : Word) : Prop := fge p ZERO = true ∧ flt p TWO_PI = true

/-- The largest word below TWO_PI. -/
def belowTwoPi : Word := 0x40C90FDA

/-- Twice `belowTwoPi`, a word of the next exponent. -/
def twiceBelowTwoPi : Word := 0x41490FDA

theorem toRat_ZERO : toRat ZERO = 0 := toRat_fzero false

theorem toRat_twiceBelowTwoPi : toRat twiceBelowTwoPi = 2 * toRat belowTwoPi := by
  have hscale : fscale twiceBelowTwoPi = fscale belowTwoPi + 1 := by decide
  have hsigned : fsigned twiceBelowTwoPi = fsigned belowTwoPi := by decide
  rw [toRat, toRat, hscale, hsigned, zpow_add_one₀ two_ne_zero]
  ring

theorem toRat_belowTwoPi_nonneg : 0 ≤ toRat belowTwoPi := by
  rw [← toRat_ZERO, ← fkey_le_iff]; decide

theorem toRat_belowTwoPi_lt : toRat belowTwoPi < toRat TWO_PI := by
  rw [← fkey_lt_iff]; decide

theorem flt_TWO_PI_iff {x : Word} (hx : isFinite x = true) : flt x TWO_PI = true ↔ toRat x ≤ toRat belowTwoPi := by
  have hnext : fkey TWO_PI = fkey belowTwoPi + 1 := by decide
  have hnan : isNaN TWO_PI = false := by decide
  rw [flt_iff, ← fkey_le_iff, hnext, Int.lt_add_one_iff]
  simp [isNaN_of_isFinite hx, hnan]

theorem phaseInRange_iff {x : Word} (hx : isFinite x = true) :
    PhaseInRange x ↔ 0 ≤ toRat x ∧ toRat x ≤ toRat belowTwoPi := by
  rw [PhaseInRange, fge_of_finite hx (by decide), toRat_ZERO, flt_TWO_PI_iff hx]

theorem isFinite_of_phaseInRange {x : Word} (h : PhaseInRange x) : isFinite x = true := by
  obtain ⟨-, -, hlo⟩ := (fge_iff _ _).1 h.1
  obtain ⟨-, -, hhi⟩ := (flt_iff _ _).1 h.2
  exact isFinite_of_fkey_between (by decide) (by decide) hlo hhi.le

/-- The premises of R231 on the increment, as numbers. -/
theorem increment_bounds {inc : Word} (hlo : flt (fneg TWO_PI) inc = true) (hhi : flt inc TWO_PI = true) :
    isFinite inc = true ∧ -toRat TWO_PI < toRat inc ∧ toRat inc ≤ toRat belowTwoPi := by
  obtain ⟨-, -, hkeyLo⟩ := (flt_iff _ _).1 hlo
  obtain ⟨-, -, hkeyHi⟩ := (flt_iff _ _).1 hhi
  have hfin : isFinite inc = true := isFinite_of_fkey_between (by decide) (by decide) hkeyLo.le hkeyHi.le
  refine ⟨hfin, ?_, (flt_TWO_PI_iff hfin).1 hhi⟩
  rwa [← toRat_fneg, ← fkey_lt_iff]

/-- The sum of a phase in range and an increment is rounded within one wrap of the range. -/
theorem fadd_increment_bounds {p inc : Word} (hp : PhaseInRange p) (hlo : flt (fneg TWO_PI) inc = true)
    (hhi : flt inc TWO_PI = true) :
    isFinite (fadd p inc) = true ∧ -toRat TWO_PI ≤ toRat (fadd p inc) ∧
      toRat (fadd p inc) ≤ 2 * toRat belowTwoPi := by
  have hpfin := isFinite_of_phaseInRange hp
  obtain ⟨hplo, hphi⟩ := (phaseInRange_iff hpfin).1 hp
  obtain ⟨hifin, hilo, hihi⟩ := increment_bounds hlo hhi
  rw [← toRat_fneg, ← toRat_twiceBelowTwoPi]
  refine (fadd_roundsTo hpfin hifin).between (by decide) (by decide) ?_ ?_
  · rw [toRat_fneg]; linarith
  · rw [toRat_twiceBelowTwoPi]; linarith

/-- One wrap brings a phase that left the range by less than one turn back into it. The bound above is
`2 * belowTwoPi`: from twice TWO_PI itself the wrap would give TWO_PI. -/
theorem phaseInRange_wrapPhase {p : Word} (hp : isFinite p = true) (hlo : -toRat TWO_PI ≤ toRat p)
    (hhi : toRat p ≤ 2 * toRat belowTwoPi) : PhaseInRange (wrapPhase p) := by
  have hT : isFinite TWO_PI = true := by decide
  have hZ : isFinite ZERO = true := by decide
  have hB : isFinite belowTwoPi = true := by decide
  have hbelow := toRat_belowTwoPi_lt
  unfold wrapPhase
  split
  case isTrue habove =>
    rw [fge_of_finite hp hT] at habove
    obtain ⟨-, hsub, -⟩ := additionRoundsCorrectly p TWO_PI hp hT
    obtain ⟨hfin, hge, hle⟩ := hsub.between hZ hB (by rw [toRat_ZERO]; linarith) (by linarith)
    exact (phaseInRange_iff hfin).2 ⟨toRat_ZERO ▸ hge, hle⟩
  case isFalse hnabove =>
    split
    case isTrue hneg =>
      rw [flt_of_finite hp hZ, toRat_ZERO] at hneg
      obtain ⟨hfin, hge, -⟩ :=
        (fadd_roundsTo hp hT).between hZ hT (by rw [toRat_ZERO]; linarith) (by linarith)
      dsimp only
      split
      case isTrue => exact ⟨by decide, by decide⟩
      case isFalse hlt =>
        rw [fge_of_finite hfin hT, not_le] at hlt
        exact ⟨(fge_of_finite hfin hZ).2 hge, (flt_of_finite hfin hT).2 hlt⟩
    case isFalse hnneg =>
      rw [fge_of_finite hp hT, not_le] at hnabove
      rw [flt_of_finite hp hZ, not_lt] at hnneg
      exact ⟨(fge_of_finite hp hZ).2 hnneg, (flt_of_finite hp hT).2 hnabove⟩

/-- Settles O31: the rounded sum is within one wrap of the range, and the wrap brings it back. -/
theorem phaseStaysInRange : Obligations.PhaseStaysInRange := by
  intro k s o inc p' hzero htwoPi hlo hhi
  obtain ⟨hfin, hge, hle⟩ := fadd_increment_bounds ⟨hzero, htwoPi⟩ hlo hhi
  have hphase : p' = wrapPhase (fadd o.phase inc) := congrArg Osc.phase (State.setOsc_self k o.next s)
  rw [hphase]
  exact phaseInRange_wrapPhase hfin hge hle

end Sys2Proof.Machine
end

section
/-!
The delay line (42_delay.md R260 to R264): what its three commands answer, what a pair of renders keeps, and the
impulse response. Between two pairs the words of a channel from its read pointer up to its write pointer are a queue;
a pair pops and pushes each queue once, and the impulse response is that what went into a queue comes out of it.
-/

namespace Sys2Proof.Machine

/-! ## DLY_CONFIG -/

/-- The operands that DLY_CONFIG accepts (R260). -/
def Delay.Configurable (d : Delay) : Prop :=
  isFinite d.fs = true ∧ isFinite (fmul d.fs d.sec) = true ∧ 1 ≤ ftoiTrunc d.fs ∧ ftoiTrunc d.fs ≤ 65536 ∧
    -2147483648 ≤ ftoiTrunc (fmul d.fs d.sec) ∧ ftoiTrunc (fmul d.fs d.sec) ≤ 2147483647

theorem Delay.plan_of_configurable {d : Delay} (h : d.Configurable) :
    d.plan = some (ftoiTrunc d.fs, ftoiTrunc (fmul d.fs d.sec)) := by
  obtain ⟨hfs, hprod, hcap, hmax, hlen, hlen'⟩ := h
  have hdepth : Config.dlyDepth = 65536 := rfl
  simp only [Delay.plan, hfs, hprod]
  rw [if_neg (by simp), if_neg (by omega), if_neg (by omega)]

theorem Delay.plan_of_not_configurable {d : Delay} (h : ¬ d.Configurable) : d.plan = none := by
  have hdepth : Config.dlyDepth = 65536 := rfl
  unfold Delay.plan
  dsimp only
  split_ifs with hfin hcap hlen
  · rfl
  · rfl
  · rfl
  · obtain ⟨hfs, hprod⟩ := not_or.1 hfin
    exact absurd ⟨by simpa using hfs, by simpa using hprod, by omega, by omega, by omega, by omega⟩ h

theorem toNat_ofInt_of_le {z : ℤ} (h0 : 0 ≤ z) (hz : z ≤ 65536) : ((BitVec.ofInt 32 z).toNat : ℤ) = z := by
  rw [BitVec.toNat_ofInt]
  omega

theorem toInt_ofInt_of_bounds {z : ℤ} (hlo : -2147483648 ≤ z) (hhi : z ≤ 2147483647) :
    (BitVec.ofInt 32 z).toInt = z := by
  rw [BitVec.toInt_ofInt, Int.bmod_eq_of_le (by omega) (by omega)]

/-- Settles O22: the capacity and the pointers fit a word because the capacity is at most DLY_DEPTH, and the refusals
are the complement of the accepted operands. -/
theorem dlyConfigResult : Obligations.DlyConfigResult := by
  intro s prod cap len
  refine ⟨fun h => ?_, fun h => ?_⟩
  · have hexec : exec .dlyConfig s = .next ((s.setDly (s.dly.configured cap len)).setStatus
        { s.status with dlyPhase := false, dlyCfg := true }) := by
      simp only [exec, execDlyConfig, Delay.plan_of_configurable h, cap, len, prod]
    obtain ⟨-, -, hcap, hmax, hlen, hlen'⟩ := h
    have hrp : ((BitVec.ofInt 32 ((0 - len) % cap)).toNat : ℤ) = (-len) % cap := by
      have hnonneg := Int.emod_nonneg (0 - len) (show cap ≠ 0 by omega)
      have hlt := Int.emod_lt_of_pos (0 - len) (show 0 < cap by omega)
      rw [toNat_ofInt_of_le hnonneg (by omega), Int.zero_sub]
    exact ⟨s.dly.configured cap len, hexec, toNat_ofInt_of_le (by omega) hmax, toInt_ofInt_of_bounds hlen hlen',
      rfl, rfl, hrp, hrp, rfl⟩
  · have hnot : ¬ s.dly.Configurable := by
      rintro ⟨hfs, hprod, hbounds⟩
      change 1 ≤ cap ∧ cap ≤ 65536 ∧ -2147483648 ≤ len ∧ len ≤ 2147483647 at hbounds
      rcases h with h | h | h
      · cases hfs.symm.trans h
      · cases hprod.symm.trans h
      · omega
    simp only [exec, execDlyConfig, Delay.plan_of_not_configurable hnot]
    rfl

/-! ## One render -/

/-- A write replaces one word of the memory (R103). -/
theorem DelayMem.read_write {m : DelayMem} (h : m.wf = true) (i : ℕ) (v : Word) :
    (m.write i v).read = Function.update m.read i v := by
  simp only [DelayMem.wf, Bool.and_eq_true] at h
  funext j
  by_cases hj : j = i
  · rw [hj, m.read_write_same 0 i v h.1, Function.update_self]
  · rw [m.read_write_other i j v hj, Function.update_of_ne hj]

@[simp] theorem checkTurn_dly (inTurn : Bool) (w : Word) (s : State) : (checkTurn inTurn w s).dly = s.dly := by
  cases inTurn <;> rfl
@[simp] theorem checkTurn_dmemL (inTurn : Bool) (w : Word) (s : State) : (checkTurn inTurn w s).dmemL = s.dmemL := by
  cases inTurn <;> rfl
@[simp] theorem checkTurn_dmemR (inTurn : Bool) (w : Word) (s : State) : (checkTurn inTurn w s).dmemR = s.dmemR := by
  cases inTurn <;> rfl
@[simp] theorem checkTurn_memRead (inTurn : Bool) (w : Word) (s : State) (ch : Channel) :
    (checkTurn inTurn w s).memRead ch = s.memRead ch := by
  cases inTurn <;> cases ch <;> rfl
@[simp] theorem checkTurn_status (inTurn : Bool) (w : Word) (s : State) : (checkTurn inTurn w s).status =
    { s.status with errOrder := s.status.errOrder || !inTurn } := by
  cases inTurn <;> simp [Status.raise]
@[simp] theorem checkTurn_errCmd (inTurn : Bool) (w : Word) (s : State) :
    (checkTurn inTurn w s).errCmd = if inTurn then s.errCmd else w := by
  cases inTurn <;> rfl

/-- No render of a delay in range faults (R263). -/
theorem Delay.InRange.renderFault {d : Delay} (h : d.InRange) {ps : List Word}
    (hps : ∀ p ∈ ps, p.toNat < d.cap.toNat) : d.renderFault ps = none :=
  d.renderFault_none ps (fun hcap => by simpa [hcap] using h.capPos) fun p hp => (hps p hp).trans_le h.capMax

/-- The state after the left render of a configured delay in range. -/
def leftRendered (s : State) : State := renderLeft (checkTurn (!s.status.dlyPhase) (encode .dlyRenderL) s)

/-- The state after the right render of a configured delay in range. -/
def rightRendered (s : State) : State := renderRight (checkTurn s.status.dlyPhase (encode .dlyRenderR) s)

section Renders

variable {s : State}

theorem execDlyRenderL_of_inRange (hcfg : s.status.dlyCfg = true) (h : s.dly.InRange) :
    exec .dlyRenderL s = .next (leftRendered s) := by
  have hfault : s.dly.renderFault [s.dly.rpL, s.dly.wpL, s.dly.wpR] = none :=
    h.renderFault (by simp [h.rpL, h.wpL, h.wpR])
  simp [exec, execDlyRenderL, leftRendered, hcfg, hfault]

theorem execDlyRenderR_of_inRange (hcfg : s.status.dlyCfg = true) (h : s.dly.InRange) :
    exec .dlyRenderR s = .next (rightRendered s) := by
  have hfault : s.dly.renderFault [s.dly.rpR, s.dly.wpL] = none := h.renderFault (by simp [h.rpR, h.wpL])
  simp [exec, execDlyRenderR, rightRendered, hcfg, hfault]

theorem execDlyRenderL_of_unconfigured (hcfg : s.status.dlyCfg = false) :
    exec .dlyRenderL s = .next (raise .errOrder (encode .dlyRenderL) s) := by
  simp [exec, execDlyRenderL, hcfg]

theorem execDlyRenderR_of_unconfigured (hcfg : s.status.dlyCfg = false) :
    exec .dlyRenderR s = .next (raise .errOrder (encode .dlyRenderR) s) := by
  simp [exec, execDlyRenderR, hcfg]

theorem leftRendered_dly : (leftRendered s).dly =
    { s.dly with
      rpL := s.dly.advance s.dly.rpL
      wpR := s.dly.advance s.dly.wpR
      outL := s.memRead .left s.dly.rpL.toNat } := by
  simp [leftRendered, renderLeft]

theorem rightRendered_dly : (rightRendered s).dly =
    { s.dly with
      rpR := s.dly.advance s.dly.rpR
      wpL := s.dly.advance s.dly.wpL
      outR := s.memRead .right s.dly.rpR.toNat } := by
  simp [rightRendered, renderRight]

theorem leftRendered_status : (leftRendered s).status =
    { s.status with dlyPhase := true, errOrder := s.status.errOrder || s.status.dlyPhase } := by
  simp [leftRendered, renderLeft]

theorem rightRendered_status : (rightRendered s).status =
    { s.status with dlyPhase := false, errOrder := s.status.errOrder || !s.status.dlyPhase } := by
  simp [rightRendered, renderRight]

theorem leftRendered_errCmd :
    (leftRendered s).errCmd = if s.status.dlyPhase then 0x21000000 else s.errCmd := by
  cases hphase : s.status.dlyPhase <;> simp [leftRendered, renderLeft, hphase, encode, cmdWord]

theorem rightRendered_errCmd :
    (rightRendered s).errCmd = if s.status.dlyPhase then s.errCmd else 0x22000000 := by
  cases hphase : s.status.dlyPhase <;> simp [rightRendered, renderRight, hphase, encode, cmdWord]

theorem leftRendered_dmemL : (leftRendered s).dmemL = s.dmemL.write s.dly.wpL.toNat s.dly.input := by
  simp [leftRendered, renderLeft]

theorem leftRendered_dmemR :
    (leftRendered s).dmemR = s.dmemR.write s.dly.wpR.toNat (s.memRead .left s.dly.rpL.toNat) := by
  simp [leftRendered, renderLeft]

theorem rightRendered_dmemL : (rightRendered s).dmemL = s.dmemL.write s.dly.wpL.toNat
    (fadd (s.memRead .left s.dly.wpL.toNat) (fmul s.dly.gain (s.memRead .right s.dly.rpR.toNat))) := by
  simp [rightRendered, renderRight]

theorem rightRendered_dmemR : (rightRendered s).dmemR = s.dmemR := by
  simp [rightRendered, renderRight]

theorem leftRendered_memRead_left (h : s.dmemL.wf = true) :
    (leftRendered s).memRead .left = Function.update (s.memRead .left) s.dly.wpL.toNat s.dly.input :=
  (congrArg DelayMem.read leftRendered_dmemL).trans (DelayMem.read_write h _ _)

theorem leftRendered_memRead_right (h : s.dmemR.wf = true) : (leftRendered s).memRead .right =
    Function.update (s.memRead .right) s.dly.wpR.toNat (s.memRead .left s.dly.rpL.toNat) :=
  (congrArg DelayMem.read leftRendered_dmemR).trans (DelayMem.read_write h _ _)

theorem rightRendered_memRead_left (h : s.dmemL.wf = true) :
    (rightRendered s).memRead .left = Function.update (s.memRead .left) s.dly.wpL.toNat
      (fadd (s.memRead .left s.dly.wpL.toNat) (fmul s.dly.gain (s.memRead .right s.dly.rpR.toNat))) :=
  (congrArg DelayMem.read rightRendered_dmemL).trans (DelayMem.read_write h _ _)

theorem rightRendered_memRead_right : (rightRendered s).memRead .right = s.memRead .right :=
  congrArg DelayMem.read rightRendered_dmemR

theorem leftRendered_inRange (h : s.dly.InRange) : (leftRendered s).dly.InRange := by
  rw [leftRendered_dly]
  exact ⟨h.capPos, h.capMax, h.wpL, h.advance _, h.advance _, h.rpR⟩

theorem rightRendered_inRange (h : s.dly.InRange) : (rightRendered s).dly.InRange := by
  rw [rightRendered_dly]
  exact ⟨h.capPos, h.capMax, h.advance _, h.rpL, h.wpR, h.advance _⟩

theorem leftRendered_wf (hrange : s.dly.InRange) (hL : s.dmemL.wf = true) (hR : s.dmemR.wf = true) :
    (leftRendered s).dmemL.wf = true ∧ (leftRendered s).dmemR.wf = true := by
  rw [leftRendered_dmemL, leftRendered_dmemR]
  exact ⟨DelayMem.wf_write _ _ _ (hrange.wpL.trans_le hrange.capMax) hL,
    DelayMem.wf_write _ _ _ (hrange.wpR.trans_le hrange.capMax) hR⟩

theorem rightRendered_wf (hrange : s.dly.InRange) (hL : s.dmemL.wf = true) (hR : s.dmemR.wf = true) :
    (rightRendered s).dmemL.wf = true ∧ (rightRendered s).dmemR.wf = true := by
  rw [rightRendered_dmemL, rightRendered_dmemR]
  exact ⟨DelayMem.wf_write _ _ _ (hrange.wpL.trans_le hrange.capMax) hL, hR⟩

theorem leftRendered_frame (s : State) :
    { leftRendered s with dly := s.dly, status := s.status, errCmd := s.errCmd, dmemL := s.dmemL, dmemR := s.dmemR } =
      s := by
  unfold leftRendered
  cases s.status.dlyPhase <;> rfl

theorem rightRendered_frame (s : State) :
    { rightRendered s with dly := s.dly, status := s.status, errCmd := s.errCmd, dmemL := s.dmemL } = s := by
  unfold rightRendered
  cases s.status.dlyPhase <;> rfl

end Renders

/-- Settles O23: the read, the two writes and the pointers are those of `renderLeft`, and the turn is checked before
them. -/
theorem leftRenderResult : Obligations.LeftRenderResult := by
  refine fun s => ⟨fun hcfg hrange hL hR => ?_, execDlyRenderL_of_unconfigured⟩
  refine ⟨_, execDlyRenderL_of_inRange hcfg hrange, leftRendered_dly, leftRendered_status, leftRendered_errCmd,
    fun j => ?_, fun j => ?_, leftRendered_frame s⟩
  · rw [leftRendered_memRead_left hL, Function.update_apply]
  · rw [leftRendered_memRead_right hR, Function.update_apply]

/-- Settles O24: the read, the one write and the pointers are those of `renderRight`, and the turn is checked before
them. -/
theorem rightRenderResult : Obligations.RightRenderResult := by
  refine fun s => ⟨fun hcfg hrange hL => ?_, execDlyRenderR_of_unconfigured⟩
  refine ⟨_, execDlyRenderR_of_inRange hcfg hrange, rightRendered_dly, rightRendered_status, rightRendered_errCmd,
    fun j => ?_, rightRendered_frame s⟩
  rw [rightRendered_memRead_left hL, Function.update_apply]
  by_cases hj : j = s.dly.wpL.toNat <;> simp [hj]

/-! ## A pair of renders -/

/-- The state after a pair of renders of a configured delay in range. -/
def renderedPair (s : State) : State := rightRendered (leftRendered s)

section Pair

variable {s : State}

theorem execAll_renderPair (hcfg : s.status.dlyCfg = true) (hrange : s.dly.InRange) :
    execAll [.dlyRenderL, .dlyRenderR] s = .next (renderedPair s) := by
  have hcfg' : (leftRendered s).status.dlyCfg = true := by rw [leftRendered_status]; exact hcfg
  simp only [execAll, execDlyRenderL_of_inRange hcfg hrange,
    execDlyRenderR_of_inRange hcfg' (leftRendered_inRange hrange), renderedPair]

/-- A pair advances all four pointers and sets both outputs. -/
theorem renderedPair_dly : (renderedPair s).dly =
    { s.dly with
      rpL := s.dly.advance s.dly.rpL
      wpL := s.dly.advance s.dly.wpL
      rpR := s.dly.advance s.dly.rpR
      wpR := s.dly.advance s.dly.wpR
      outL := s.memRead .left s.dly.rpL.toNat
      outR := (leftRendered s).memRead .right s.dly.rpR.toNat } := by
  rw [renderedPair, rightRendered_dly, leftRendered_dly]
  rfl

/-- After the left render the right one is in turn. -/
theorem renderedPair_status : (renderedPair s).status =
    { s.status with dlyPhase := false, errOrder := s.status.errOrder || s.status.dlyPhase } := by
  simp [renderedPair, rightRendered_status, leftRendered_status]

theorem renderedPair_errCmd :
    (renderedPair s).errCmd = if s.status.dlyPhase then 0x21000000 else s.errCmd := by
  simp [renderedPair, rightRendered_errCmd, leftRendered_errCmd, leftRendered_status]

/-- A pair writes the left word at WP_L: the input and the feedback of the right output. -/
theorem renderedPair_memRead_left (hrange : s.dly.InRange) (hL : s.dmemL.wf = true) (hR : s.dmemR.wf = true) :
    (renderedPair s).memRead .left = Function.update (s.memRead .left) s.dly.wpL.toNat
      (fadd s.dly.input (fmul s.dly.gain (renderedPair s).dly.outR)) := by
  rw [renderedPair_dly, renderedPair, rightRendered_memRead_left (leftRendered_wf hrange hL hR).1,
    leftRendered_memRead_left hL, leftRendered_dly]
  simp

theorem renderedPair_memRead_right (hR : s.dmemR.wf = true) : (renderedPair s).memRead .right =
    Function.update (s.memRead .right) s.dly.wpR.toNat (s.memRead .left s.dly.rpL.toNat) := by
  rw [renderedPair, rightRendered_memRead_right, leftRendered_memRead_right hR]

theorem renderedPair_wf (hrange : s.dly.InRange) (hL : s.dmemL.wf = true) (hR : s.dmemR.wf = true) :
    (renderedPair s).dmemL.wf = true ∧ (renderedPair s).dmemR.wf = true := by
  obtain ⟨hL', hR'⟩ := leftRendered_wf hrange hL hR
  exact rightRendered_wf (leftRendered_inRange hrange) hL' hR'

theorem renderedPair_inRange (h : s.dly.InRange) : (renderedPair s).dly.InRange :=
  rightRendered_inRange (leftRendered_inRange h)

theorem renderedPair_pointers (h : s.dly.InRange) :
    (renderedPair s).dly.rpL.toNat = (s.dly.rpL.toNat + 1) % s.dly.cap.toNat ∧
      (renderedPair s).dly.wpL.toNat = (s.dly.wpL.toNat + 1) % s.dly.cap.toNat ∧
      (renderedPair s).dly.rpR.toNat = (s.dly.rpR.toNat + 1) % s.dly.cap.toNat ∧
      (renderedPair s).dly.wpR.toNat = (s.dly.wpR.toNat + 1) % s.dly.cap.toNat := by
  have hadvance := fun p => (s.dly.advance_toNat p h.capPos).1
  rw [renderedPair_dly]
  exact ⟨hadvance _, hadvance _, hadvance _, hadvance _⟩

end Pair

/-- Two pointers advanced together keep their distance modulo CAP. -/
theorem Delay.InRange.advance_sub {d : Delay} (h : d.InRange) (p q : Word) :
    (((d.advance p).toNat : ℤ) - (d.advance q).toNat) % d.cap.toNat = ((p.toNat : ℤ) - q.toNat) % d.cap.toNat := by
  rw [(d.advance_toNat p h.capPos).1, (d.advance_toNat q h.capPos).1]
  push_cast
  rw [← Int.sub_emod, add_sub_add_right_eq_sub]

/-- Settles O34: a pair advances all four pointers by one, and after the left render the right one is in turn. -/
theorem renderPairKeepsPointerDistance : Obligations.RenderPairKeepsPointerDistance := by
  intro s hcfg hphase hrange hwp hrp hdist
  have hstatus : (renderedPair s).status = s.status := by rw [renderedPair_status, hphase, Bool.or_false, ← hphase]
  have herr : (renderedPair s).errCmd = s.errCmd := by rw [renderedPair_errCmd, hphase]; rfl
  have hdist' := (hrange.advance_sub s.dly.wpL s.dly.rpL).trans hdist
  refine ⟨_, execAll_renderPair hcfg hrange, renderedPair_inRange hrange, ?_⟩
  rw [renderedPair_dly]
  exact ⟨rfl, rfl, congrArg s.dly.advance hwp, congrArg s.dly.advance hrp, hdist', hstatus, herr⟩

/-! ## A channel as a queue -/

/-- The words of `mem` from `rp` up to `wp`, modulo `cap`, are those of `q`, the oldest first. -/
structure IsQueue (mem : ℕ → Word) (cap rp wp : ℕ) (q : List Word) : Prop where
  rp_lt : rp < cap
  length_le : q.length ≤ cap
  wp_eq : wp = (rp + q.length) % cap
  words : ∀ i (h : i < q.length), mem ((rp + i) % cap) = q[i]

section Queue

variable {mem : ℕ → Word} {cap rp wp : ℕ} {q : List Word} {v : Word}

theorem IsQueue.wp_lt (h : IsQueue mem cap rp wp q) : wp < cap :=
  h.wp_eq ▸ Nat.mod_lt _ (Nat.zero_lt_of_lt h.rp_lt)

theorem IsQueue.head_eq (h : IsQueue mem cap rp wp (v :: q)) : mem rp = v :=
  (congrArg mem (Nat.mod_eq_of_lt h.rp_lt)).symm.trans (h.words 0 (Nat.succ_pos _))

theorem IsQueue.pop (h : IsQueue mem cap rp wp (v :: q)) : IsQueue mem cap ((rp + 1) % cap) wp q where
  rp_lt := Nat.mod_lt _ (Nat.zero_lt_of_lt h.rp_lt)
  length_le := (Nat.le_succ _).trans h.length_le
  wp_eq := by
    rw [Nat.mod_add_mod, Nat.add_right_comm, h.wp_eq, List.length_cons, Nat.add_assoc]
  words i hi := by
    have hword := h.words (i + 1) (by simpa using hi)
    rwa [List.getElem_cons_succ, ← Nat.add_assoc, Nat.add_right_comm, ← Nat.mod_add_mod] at hword

theorem IsQueue.push (h : IsQueue mem cap rp wp q) (hlen : q.length < cap) (v : Word) :
    IsQueue (Function.update mem wp v) cap rp ((wp + 1) % cap) (q ++ [v]) where
  rp_lt := h.rp_lt
  length_le := by simpa using hlen
  wp_eq := by rw [h.wp_eq, Nat.mod_add_mod, List.length_append, List.length_singleton, Nat.add_assoc]
  words i hi := by
    rcases (Nat.lt_succ_iff_lt_or_eq (m := i) (n := q.length)).1 (by simpa using hi) with hi | rfl
    · have hne : (rp + i) % cap ≠ wp := by
        rw [h.wp_eq]
        intro heq
        have hmod : i % cap = q.length % cap := Nat.ModEq.add_left_cancel' rp heq
        rw [Nat.mod_eq_of_lt (by omega), Nat.mod_eq_of_lt hlen] at hmod
        omega
      rw [Function.update_of_ne hne, h.words i hi, List.getElem_append_left hi]
    · simp [← h.wp_eq]

end Queue

/-- Between two pairs the left channel holds the queue `qL` and the right channel the queue `qR`. -/
structure State.Queues (qL qR : List Word) (s : State) : Prop where
  cfg : s.status.dlyCfg = true
  capMax : s.dly.cap.toNat ≤ Config.dlyDepth
  memL : s.dmemL.wf = true
  memR : s.dmemR.wf = true
  left : IsQueue (s.memRead .left) s.dly.cap.toNat s.dly.rpL.toNat s.dly.wpL.toNat qL
  right : IsQueue (s.memRead .right) s.dly.cap.toNat s.dly.rpR.toNat s.dly.wpR.toNat qR
  rightSpare : qR.length < s.dly.cap.toNat

section Run

variable {s : State} {qL qR qR' : List Word} {l r : Word}

theorem State.Queues.inRange (h : s.Queues qL qR) : s.dly.InRange :=
  ⟨Nat.zero_lt_of_lt h.left.rp_lt, h.capMax, h.left.wp_lt, h.left.rp_lt, h.right.wp_lt, h.right.rp_lt⟩

theorem State.Queues.withInput (h : s.Queues qL qR) (x : Word) :
    State.Queues qL qR { s with dly := { s.dly with input := x } } :=
  { h with }

/-- A pair pops a word of the left queue and pushes it to the right one, pops a word of the right queue, and pushes the
input and that word's feedback to the left one. -/
theorem renderedPair_queues (h : s.Queues (l :: qL) qR) (hr : qR ++ [l] = r :: qR') :
    (renderedPair s).dly.outL = l ∧ (renderedPair s).dly.outR = r ∧
      (renderedPair s).Queues (qL ++ [fadd s.dly.input (fmul s.dly.gain r)]) qR' := by
  have hhead := h.left.head_eq
  have hright : IsQueue ((renderedPair s).memRead .right) s.dly.cap.toNat s.dly.rpR.toNat
      ((s.dly.wpR.toNat + 1) % s.dly.cap.toNat) (r :: qR') := by
    rw [renderedPair_memRead_right h.memR, hhead, ← hr]
    exact h.right.push h.rightSpare l
  have houtR : (renderedPair s).dly.outR = r := by
    rw [renderedPair_dly]
    exact hright.head_eq
  have hleft : IsQueue ((renderedPair s).memRead .left) s.dly.cap.toNat
      ((s.dly.rpL.toNat + 1) % s.dly.cap.toNat) ((s.dly.wpL.toNat + 1) % s.dly.cap.toNat)
      (qL ++ [fadd s.dly.input (fmul s.dly.gain r)]) := by
    rw [renderedPair_memRead_left h.inRange h.memL h.memR, houtR]
    exact h.left.pop.push h.left.length_le _
  obtain ⟨hrpL, hwpL, hrpR, hwpR⟩ := renderedPair_pointers h.inRange
  have hcap : (renderedPair s).dly.cap = s.dly.cap := by rw [renderedPair_dly]
  have houtL : (renderedPair s).dly.outL = l := by rw [renderedPair_dly]; exact hhead
  have hlen : qR.length = qR'.length := by simpa using congrArg List.length hr
  exact ⟨houtL, houtR,
    { cfg := by rw [renderedPair_status]; exact h.cfg
      capMax := hcap ▸ h.capMax
      memL := (renderedPair_wf h.inRange h.memL h.memR).1
      memR := (renderedPair_wf h.inRange h.memL h.memR).2
      left := by rwa [hcap, hrpL, hwpL]
      right := by rw [hcap, hrpR, hwpR]; exact hright.pop
      rightSpare := by rw [hcap, ← hlen]; exact h.rightSpare }⟩

theorem renderPair_queues (h : s.Queues (l :: qL) qR) (hr : qR ++ [l] = r :: qR') (x : Word) :
    ∃ t, renderPair x s = .next t ∧ t.dly.outL = l ∧ t.dly.outR = r ∧ t.dly.gain = s.dly.gain ∧
      t.Queues (qL ++ [fadd x (fmul s.dly.gain r)]) qR' := by
  have h' := h.withInput x
  obtain ⟨houtL, houtR, hq⟩ := renderedPair_queues h' hr
  exact ⟨_, execAll_renderPair h'.cfg h'.inRange, houtL, houtR, by rw [renderedPair_dly], hq⟩

end Run

/-- What a run of pairs pushes to the left queue: each input with the feedback of the pair's right output. -/
def fedBack (g : Word) (ins : List Word) (outs : List (Word × Word)) : List Word :=
  List.zipWith (fun x out => fadd x (fmul g out.2)) ins outs

theorem getD_fedBack (g : Word) {ins : List Word} {outs : List (Word × Word)} {k : ℕ}
    (hlen : outs.length = ins.length) (hk : k < ins.length) :
    (fedBack g ins outs).getD k 0 = fadd (ins.getD k 0) (fmul g (outs.getD k (0, 0)).2) := by
  simp [fedBack, hlen, hk]

/-- What goes into a queue comes out of it. A left output comes out of the left queue and goes into the right one, and
its word that comes out is the right output. -/
theorem pairOutputs_of_queues {ins : List Word} {s : State} {qL qR : List Word} (h : s.Queues qL qR) (hne : qL ≠ []) :
    (pairOutputs ins s).length = ins.length ∧
    (∃ qL', (pairOutputs ins s).map Prod.fst ++ qL' = qL ++ fedBack s.dly.gain ins (pairOutputs ins s)) ∧
    ∃ qR', (pairOutputs ins s).map Prod.snd ++ qR' = qR ++ (pairOutputs ins s).map Prod.fst := by
  induction ins generalizing s qL qR with
  | nil => exact ⟨rfl, ⟨_, (List.append_nil _).symm⟩, ⟨_, (List.append_nil _).symm⟩⟩
  | cons x rest ih =>
    obtain ⟨l, qL, rfl⟩ := List.exists_cons_of_ne_nil hne
    obtain ⟨r, qR', hr⟩ := List.exists_cons_of_ne_nil (show qR ++ [l] ≠ [] by simp)
    obtain ⟨t, hpair, houtL, houtR, hgain, hq⟩ := renderPair_queues h hr x
    obtain ⟨hlen, ⟨qL', hL⟩, ⟨qR'', hR⟩⟩ := ih hq (by simp)
    have hout : pairOutputs (x :: rest) s = (l, r) :: pairOutputs rest t := by
      simp only [pairOutputs, hpair, houtL, houtR]
    rw [hout]
    refine ⟨congrArg Nat.succ hlen, ⟨qL', ?_⟩, ⟨qR'', ?_⟩⟩
    · simp [hL, hgain, fedBack]
    · rw [List.map_cons, List.cons_append, hR, ← List.cons_append, ← hr, List.append_assoc]
      rfl

/-! ## The impulse response -/

/-- A queue of zeros from a read pointer `k` words behind a write pointer at 0. -/
theorem isQueue_zeros {mem : ℕ → Word} {cap rp k : ℕ} (hrp : rp < cap) (hk : k ≤ cap) (hwp : (rp + k) % cap = 0)
    (hzero : ∀ n, n < k → mem ((rp + n) % cap) = 0) : IsQueue mem cap rp 0 (List.replicate k 0) where
  rp_lt := hrp
  length_le := by simpa using hk
  wp_eq := by simpa using hwp.symm
  words i hi := by simpa using hzero i (by simpa using hi)

/-- DLY_CONFIG puts the read pointer LEN mod CAP words behind the write pointer at 0 (R260). -/
theorem configured_distance {len : ℤ} {cap rp : ℕ} (hcap : 0 < cap) (hrp : (rp : ℤ) = (-len) % cap) :
    (len % cap).toNat < cap ∧ (rp + (len % cap).toNat) % cap = 0 := by
  have hnonneg := Int.emod_nonneg len (b := cap) (by omega)
  have hlt := Int.emod_lt_of_pos len (b := cap) (by omega)
  refine ⟨by omega, ?_⟩
  have hsum : ((-len) % cap + len % cap) % (cap : ℤ) = 0 := by
    rw [← Int.add_emod, neg_add_cancel, Int.zero_emod]
  rw [← hrp, ← Int.toNat_of_nonneg hnonneg] at hsum
  exact_mod_cast hsum

/-- What comes out of a queue that began with `k` zeros. -/
theorem getD_of_append_eq {out queue fed : List Word} {k n : ℕ} (h : out ++ queue = List.replicate k 0 ++ fed)
    (hn : n < out.length) : out.getD n 0 = if n < k then 0 else fed.getD (n - k) 0 := by
  rw [← List.getD_append out queue 0 n hn, h]
  split
  next hk => rw [List.getD_append _ _ _ _ (by simpa using hk), List.getD_replicate _ hk]
  next hk => rw [List.getD_append_right _ _ _ _ (by simpa using hk), List.length_replicate]

/-- Settles O35: the delay starts as two queues of zeros, of M and of m words, and what goes into them comes out. -/
theorem delayImpulseResponse : Obligations.DelayImpulseResponse := by
  intro s ins hcfg hrange hL hR hwpL hwpR hrp hrpR out m big hzeroL hzeroR
  obtain ⟨hmlt, hwp⟩ : m < s.dly.cap.toNat ∧ (s.dly.rpL.toNat + m) % s.dly.cap.toNat = 0 :=
    configured_distance hrange.capPos hrp
  obtain ⟨hpos, hmax, hwp'⟩ :
      0 < big ∧ big ≤ s.dly.cap.toNat ∧ (s.dly.rpL.toNat + big) % s.dly.cap.toNat = 0 := by
    by_cases h0 : m = 0
    · rw [show big = s.dly.cap.toNat from if_pos h0, Nat.add_mod_right]
      exact ⟨hrange.capPos, le_rfl, by rwa [h0, Nat.add_zero] at hwp⟩
    · rw [show big = m from if_neg h0]
      exact ⟨Nat.pos_of_ne_zero h0, hmlt.le, hwp⟩
  have hqueues : s.Queues (List.replicate big 0) (List.replicate m 0) :=
    { cfg := hcfg
      capMax := hrange.capMax
      memL := hL
      memR := hR
      left := by rw [hwpL]; exact isQueue_zeros hrange.rpL hmax hwp' hzeroL
      right := by rw [hwpR]; exact isQueue_zeros hrange.rpR hmlt.le (hrpR ▸ hwp) hzeroR
      rightSpare := by simpa using hmlt }
  have hne : List.replicate big (0 : Word) ≠ [] := by simpa using hpos.ne'
  obtain ⟨hlen, ⟨qL', houtL⟩, ⟨qR', houtR⟩⟩ := pairOutputs_of_queues (ins := ins) hqueues hne
  have hfst : ∀ k, (out.map Prod.fst).getD k 0 = (out.getD k (0, 0)).1 := fun _ => List.getD_map _ (0, 0) Prod.fst
  have hsnd : ∀ k, (out.map Prod.snd).getD k 0 = (out.getD k (0, 0)).2 := fun _ => List.getD_map _ (0, 0) Prod.snd
  refine ⟨hlen, fun n hn => ?_⟩
  have hnout : n < out.length := hlen ▸ hn
  constructor
  · rw [← hfst, getD_of_append_eq houtL (by simpa using hnout), getD_fedBack _ hlen (by omega)]
  · rw [← hsnd, getD_of_append_eq houtR (by simpa using hnout), hfst]

end Sys2Proof.Machine
end

section
/-!
The calibration of a sensor (43_sequencer.md R320, R323): what one tick does in each phase, and the phase after any
number of ticks.
-/

namespace Sys2Proof.Machine

/-! ## One tick -/

section Tick

variable {x : Sensor}

/-- A tick of the minima, from Idle too (R320). -/
theorem Sensor.tick_of_minima (b : Build) (dur : Word) (ain : Vector Word 16)
    (h : x.calState = .idle ∨ x.calState = .measuringMinima) :
    x.tick b dur ain =
      { x with mins := x.raiseAll b ain x.mins }.countTick dur .measuringMinima .measuringMaxima := by
  rcases h with h | h <;> simp only [Sensor.tick, h]

/-- A tick of the maxima (R320). -/
theorem Sensor.tick_of_maxima (b : Build) (dur : Word) (ain : Vector Word 16) (h : x.calState = .measuringMaxima) :
    x.tick b dur ain = { x with maxs := x.raiseAll b ain x.maxs }.countTick dur .measuringMaxima .done := by
  simp only [Sensor.tick, h]

/-- What the end of a tick does to the state and the count, and that it changes nothing else. -/
theorem Sensor.countTick_spec (dur : Word) (here after : CalState) (x : Sensor) :
    (dur.toNat ≤ x.calCnt.toNat + 1 →
      (x.countTick dur here after).calState = after ∧ (x.countTick dur here after).calCnt = 0) ∧
    (¬ dur.toNat ≤ x.calCnt.toNat + 1 →
      (x.countTick dur here after).calState = here ∧
        (x.countTick dur here after).calCnt.toNat = x.calCnt.toNat + 1) ∧
    x.countTick dur here after =
      { x with
        calState := (x.countTick dur here after).calState
        calCnt := (x.countTick dur here after).calCnt } := by
  by_cases hfull : dur.toNat ≤ x.calCnt.toNat + 1
  · rw [Sensor.countTick_full dur here after x hfull]
    exact ⟨fun _ => ⟨rfl, rfl⟩, fun hpartial => absurd hfull hpartial, rfl⟩
  · obtain ⟨heq, hcnt⟩ := Sensor.countTick_partial dur here after x (Nat.lt_of_not_le hfull)
    rw [heq]
    exact ⟨fun h => absurd h hfull, fun _ => ⟨rfl, hcnt⟩, rfl⟩

@[simp] theorem Sensor.countTick_mins (dur : Word) (here after : CalState) (x : Sensor) :
    (x.countTick dur here after).mins = x.mins := by
  rw [(Sensor.countTick_spec dur here after x).2.2]

@[simp] theorem Sensor.countTick_maxs (dur : Word) (here after : CalState) (x : Sensor) :
    (x.countTick dur here after).maxs = x.maxs := by
  rw [(Sensor.countTick_spec dur here after x).2.2]

end Tick

theorem execSnsTick_eq (sn : Fin 2) (s : State) : exec (.snsTick sn) s = .next (tick sn s) := rfl

/-- Settles O26: the tick of each phase is a column scan of its extremes and `countTick`. -/
theorem snsTickResult : Obligations.SnsTickResult := by
  refine fun sn s => ⟨fun hphase => ⟨_, execSnsTick_eq sn s, ?_⟩, fun hphase => ⟨_, execSnsTick_eq sn s, ?_⟩,
    fun hdone => ?_⟩
  · rw [Sensor.tick_of_minima _ _ _ hphase]
    obtain ⟨hfull, hpartial, hframe⟩ := Sensor.countTick_spec s.seq.calDur .measuringMinima .measuringMaxima
      { s.sns[sn.val] with mins := (s.sns[sn.val]).raiseAll s.build s.ain (s.sns[sn.val]).mins }
    refine ⟨fun c => ?_, hfull, hpartial, by rw [Sensor.countTick_mins]; exact hframe⟩
    rw [Sensor.countTick_mins]
    exact Sensor.raiseAll_get ..
  · rw [Sensor.tick_of_maxima _ _ _ hphase]
    obtain ⟨hfull, hpartial, hframe⟩ := Sensor.countTick_spec s.seq.calDur .measuringMaxima .done
      { s.sns[sn.val] with maxs := (s.sns[sn.val]).raiseAll s.build s.ain (s.sns[sn.val]).maxs }
    refine ⟨fun c => ?_, hfull, hpartial, by rw [Sensor.countTick_maxs]; exact hframe⟩
    rw [Sensor.countTick_maxs]
    exact Sensor.raiseAll_get ..
  · rw [execSnsTick_eq, tick, Sensor.tick_done _ _ _ _ hdone, State.setSns, Vector.set_getElem_self]

/-! ## A number of ticks -/

/-- The calibration state and the count after `n` ticks from Idle with phases of `d` ticks (R323). -/
def calibrationAfter (d n : ℕ) : CalState × ℕ :=
  if n = 0 then (.idle, 0)
  else if n < d then (.measuringMinima, n)
  else if n < 2 * d then (.measuringMaxima, n - d)
  else (.done, 0)

/-- The ticks of one phase: CAL_DUR, and one when CAL_DUR is 0 (R320). -/
def phaseTicks (dur : Word) : ℕ := max dur.toNat 1

theorem one_le_phaseTicks (dur : Word) : 1 ≤ phaseTicks dur := le_max_right _ _

theorem phaseTicks_le_iff (dur : Word) (k : ℕ) : phaseTicks dur ≤ k + 1 ↔ dur.toNat ≤ k + 1 := by
  simp [phaseTicks]

/-- The sensor is `n` ticks from Idle in phases of `d` ticks. -/
def Sensor.TickedFor (d n : ℕ) (x : Sensor) : Prop := (x.calState, x.calCnt.toNat) = calibrationAfter d n

section Ticks

variable {d n : ℕ} {x : Sensor}

theorem calibrationAfter_minima (h1 : 1 ≤ n) (h2 : n < d) : calibrationAfter d n = (.measuringMinima, n) := by
  rw [calibrationAfter, if_neg (by omega), if_pos h2]

theorem calibrationAfter_maxima (hd : 1 ≤ d) (h1 : d ≤ n) (h2 : n < 2 * d) :
    calibrationAfter d n = (.measuringMaxima, n - d) := by
  rw [calibrationAfter, if_neg (Nat.one_le_iff_ne_zero.1 (hd.trans h1)), if_neg (by omega), if_pos h2]

theorem calibrationAfter_done (hd : 1 ≤ d) (h : 2 * d ≤ n) : calibrationAfter d n = (.done, 0) := by
  rw [calibrationAfter, if_neg (by omega), if_neg (by omega), if_neg (by omega)]

theorem Sensor.tickedFor_iff : x.TickedFor d n ↔
    x.calState = (calibrationAfter d n).1 ∧ x.calCnt.toNat = (calibrationAfter d n).2 := Prod.ext_iff

theorem Sensor.tickedFor_zero (hidle : x.calState = .idle) (hcnt : x.calCnt = 0) : x.TickedFor d 0 := by
  rw [Sensor.TickedFor, hidle, hcnt]
  rfl

theorem Sensor.TickedFor.done_iff (h : x.TickedFor d n) (hd : 1 ≤ d) : x.calState = .done ↔ 2 * d ≤ n := by
  rw [(Sensor.tickedFor_iff.1 h).1]
  constructor
  · contrapose!
    intro hlt
    unfold calibrationAfter
    split_ifs <;> simp
  · exact fun hle => congrArg Prod.fst (calibrationAfter_done hd hle)

theorem Sensor.TickedFor.of_done {m : ℕ} (h : x.TickedFor d n) (hd : 1 ≤ d) (hn : 2 * d ≤ n) (hm : 2 * d ≤ m) :
    x.TickedFor d m := by
  rw [Sensor.TickedFor, calibrationAfter_done hd hm, ← calibrationAfter_done hd hn]
  exact h

/-- Before the `d`-th tick the minima come next, and the count is that of the ticks. -/
theorem Sensor.TickedFor.minima_next (h : x.TickedFor d n) (hn : n < d) :
    (x.calState = .idle ∨ x.calState = .measuringMinima) ∧ x.calCnt.toNat = n := by
  obtain ⟨hstate, hcnt⟩ := Sensor.tickedFor_iff.1 h
  rcases Nat.eq_zero_or_pos n with rfl | hpos
  · exact ⟨.inl hstate, hcnt⟩
  · rw [calibrationAfter_minima hpos hn] at hstate hcnt
    exact ⟨.inr hstate, hcnt⟩

/-- A tick of a phase that goes on counts up, and the last tick of a phase enters the next one with the count at 0. -/
theorem Sensor.countTick_tickedFor {dur : Word} {here after : CalState}
    (hpartial : x.calCnt.toNat + 1 < phaseTicks dur → calibrationAfter d n = (here, x.calCnt.toNat + 1))
    (hfull : phaseTicks dur ≤ x.calCnt.toNat + 1 → calibrationAfter d n = (after, 0)) :
    (x.countTick dur here after).TickedFor d n := by
  have hiff := phaseTicks_le_iff dur x.calCnt.toNat
  obtain ⟨hcountFull, hcountPartial, -⟩ := Sensor.countTick_spec dur here after x
  by_cases hle : phaseTicks dur ≤ x.calCnt.toNat + 1
  · obtain ⟨hstate, hcnt⟩ := hcountFull (hiff.1 hle)
    rw [Sensor.TickedFor, hfull hle, hstate, hcnt]
    rfl
  · obtain ⟨hstate, hcnt⟩ := hcountPartial (mt hiff.2 hle)
    rw [Sensor.TickedFor, hpartial (Nat.lt_of_not_le hle), hstate, hcnt]

/-- A tick takes a sensor from one number of ticks to the next, and Done is the state after every later one. -/
theorem Sensor.TickedFor.tick {dur : Word} (h : x.TickedFor (phaseTicks dur) n) (b : Build) (ain : Vector Word 16) :
    (x.tick b dur ain).TickedFor (phaseTicks dur) (n + 1) := by
  have hd := one_le_phaseTicks dur
  rcases lt_or_ge n (phaseTicks dur) with hmin | hmin
  · obtain ⟨hphase, hcnt⟩ := h.minima_next hmin
    rw [Sensor.tick_of_minima _ _ _ hphase]
    refine Sensor.countTick_tickedFor (fun hlt => ?_) fun hle => ?_
    · rw [hcnt] at hlt ⊢
      exact calibrationAfter_minima n.succ_pos hlt
    · rw [hcnt] at hle
      rw [calibrationAfter_maxima hd hle (by omega), Nat.sub_eq_zero_of_le hmin]
  obtain ⟨hstate, hcnt⟩ := Sensor.tickedFor_iff.1 h
  rcases lt_or_ge n (2 * phaseTicks dur) with hmax | hmax
  · rw [calibrationAfter_maxima hd hmin hmax] at hstate hcnt
    rw [Sensor.tick_of_maxima _ _ _ hstate]
    refine Sensor.countTick_tickedFor (fun hlt => ?_) fun hle => ?_
    · rw [hcnt] at hlt ⊢
      rw [calibrationAfter_maxima hd (by omega) (by omega), Nat.sub_add_comm hmin]
    · rw [hcnt] at hle
      exact calibrationAfter_done hd (by omega)
  · rw [Sensor.tick_done _ _ _ _ ((h.done_iff hd).2 hmax)]
    exact h.of_done hd hmax (by omega)

end Ticks

/-- A command that always takes the state to `f` of it takes it in `n` goes to `f` applied `n` times. -/
theorem execAll_replicate {i : Instr} {f : State → State} (hf : ∀ s, exec i s = .next (f s)) (n : ℕ) (s : State) :
    execAll (List.replicate n i) s = .next (f^[n] s) := by
  induction n generalizing s with
  | zero => rfl
  | succ n ih => rw [List.replicate_succ, execAll, hf, Function.iterate_succ_apply]; exact ih (f s)

/-- `n` ticks of one sensor take it `n` ticks on, and keep CAL_DUR. -/
theorem tick_iterate_tickedFor {sn : Fin 2} {s : State} (hidle : (s.sns[sn.val]).calState = .idle)
    (hcnt : (s.sns[sn.val]).calCnt = 0) (n : ℕ) :
    (((tick sn)^[n] s).sns[sn.val]).TickedFor (phaseTicks s.seq.calDur) n ∧
      ((tick sn)^[n] s).seq.calDur = s.seq.calDur := by
  induction n with
  | zero => exact ⟨Sensor.tickedFor_zero hidle hcnt, rfl⟩
  | succ n ih =>
    obtain ⟨hticked, hdur⟩ := ih
    rw [Function.iterate_succ_apply', tick, State.setSns_self, hdur]
    exact ⟨hticked.tick _ _, hdur⟩

/-- Settles O32: after `n` ticks the sensor is as `calibrationAfter` says; with CAL_DUR = 0 a phase is one tick. -/
theorem calibrationLength : Obligations.CalibrationLength := by
  constructor
  · intro sn s d n hidle hcnt hdur hd _
    have hphase : phaseTicks s.seq.calDur = d := by rw [phaseTicks, hdur, max_eq_left hd]
    obtain ⟨hticked, -⟩ := tick_iterate_tickedFor hidle hcnt n
    rw [hphase] at hticked
    obtain ⟨hstate, hcount⟩ := Sensor.tickedFor_iff.1 hticked
    refine ⟨_, execAll_replicate (execSnsTick_eq sn) n s, ?_, fun h1 h2 => ?_, fun h1 h2 => ?_, fun hn => ?_⟩
    · rintro rfl
      exact hidle
    · rw [calibrationAfter_minima h1 h2] at hstate hcount
      exact ⟨hstate, hcount⟩
    · rw [calibrationAfter_maxima hd h1 h2] at hstate hcount
      exact ⟨hstate, hcount⟩
    · rw [calibrationAfter_done hd hn.ge] at hstate hcount
      exact ⟨hstate, BitVec.eq_of_toNat_eq hcount⟩
  · intro sn s hidle hcnt hdur
    have hphase : phaseTicks s.seq.calDur = 1 := by rw [phaseTicks, hdur]; rfl
    obtain ⟨hticked, -⟩ := tick_iterate_tickedFor hidle hcnt 2
    rw [hphase] at hticked
    exact ⟨_, execAll_replicate (execSnsTick_eq sn) 2 s, (hticked.done_iff le_rfl).2 le_rfl⟩

end Sys2Proof.Machine
end

section
/-!
The row read of a sensor (43_sequencer.md R301, R321): the grid row and the peak tracker after a scan of the columns.
-/

namespace Sys2Proof.Machine

/-! ## The value of a column -/

/-- The normalised reading of a column (R300, R301). -/
def Sensor.columnValue (ain : Vector Word 16) (x : Sensor) (c : Fin 16) : Word := x.normalize c (x.reading ain c)

/-- A row read does not change the value of a column, which is made of the calibration. -/
theorem Sensor.sampleColumn_columnValue (ain : Vector Word 16) (er : Fin 16) (x : Sensor) (c : Fin 16) :
    (x.sampleColumn ain er c).columnValue ain = x.columnValue ain := by
  obtain ⟨_, _, _, _, heq⟩ := Sensor.sampleColumn_frame ain er x c
  rw [heq]
  rfl

/-! ## The grid -/

/-- A scan over columns without repeats writes the value of each into the effective row. -/
theorem Sensor.sampleFold_grid (ain : Vector Word 16) (er : Fin 16) {l : List (Fin 16)} (hl : l.Nodup) (x : Sensor)
    (a r : Fin 16) :
    (((l.foldl (Sensor.sampleColumn ain er) x).grid)[a.val])[r.val] =
      if a ∈ l ∧ r = er then x.columnValue ain a else (x.grid[a.val])[r.val] := by
  induction l generalizing x with
  | nil => simp
  | cons d l ih =>
    obtain ⟨hd, hl⟩ := List.nodup_cons.1 hl
    rw [List.foldl_cons, ih hl, Sensor.sampleColumn_columnValue, Sensor.sampleColumn_grid]
    by_cases had : a = d
    · subst had
      simp [hd, Sensor.columnValue]
    · simp [had]

/-- The grid after a row read (R321). -/
theorem Sensor.sample_grid (b : Build) (ain : Vector Word 16) (row : ℕ) (x : Sensor) (c r : Fin 16) :
    (((x.sample b ain row).grid)[c.val])[r.val] =
      if c.val < b.dim ∧ r = effectiveRow b row then x.columnValue ain c else (x.grid[c.val])[r.val] := by
  rw [Sensor.sample, Sensor.sampleFold_grid ain _ (columns_nodup b) x c r]
  simp only [mem_columns]

theorem eq_effectiveRow_iff (b : Build) (row : ℕ) (r : Fin 16) :
    r = effectiveRow b row ↔ (r.val : ℤ) = ((row : ℤ) - b.lag) % b.dim := by
  rw [← effectiveRow_val, Nat.cast_inj, Fin.ext_iff]

/-! ## The command -/

theorem execSnsSample_of_done {sn : Fin 2} {s : State} (h : (s.sns[sn.val]).calState = .done) (row : BitVec 8) :
    exec (.snsSample sn row) s = .next (sampleRow sn row.toNat s) :=
  if_neg (not_not.2 h)

theorem execSnsSample_of_calibrating {sn : Fin 2} {s : State} (h : (s.sns[sn.val]).calState ≠ .done)
    (row : BitVec 8) :
    exec (.snsSample sn row) s = .next (raise .errOrder (encode (.snsSample sn row)) s) :=
  if_pos h

/-- The four bytes of a command word as a number. -/
theorem cmdWord_toNat (opc arg inst : BitVec 8) :
    (cmdWord opc arg inst).toNat = 2 ^ 24 * opc.toNat + 2 ^ 8 * arg.toNat + inst.toNat := by
  rw [cmdWord, BitVec.toNat_append, BitVec.toNat_append, BitVec.toNat_append,
    ← Nat.shiftLeft_add_eq_or_of_lt (BitVec.isLt _), ← Nat.shiftLeft_add_eq_or_of_lt (BitVec.isLt _),
    ← Nat.shiftLeft_add_eq_or_of_lt (BitVec.isLt _)]
  simp only [Nat.shiftLeft_eq, show (0 : BitVec 8).toNat = 0 from rfl]
  omega

theorem encode_snsSample (sn : Fin 2) (row : BitVec 8) :
    encode (.snsSample sn row) = 0x32000000 + BitVec.ofNat 32 (256 * row.toNat + sn.val) := by
  have hrow := row.isLt
  have hopc : (0x32 : BitVec 8).toNat = 0x32 := rfl
  have hword : (0x32000000 : Word).toNat = 0x32000000 := rfl
  refine BitVec.eq_of_toNat_eq ?_
  rw [encode, cmdWord_toNat, BitVec.toNat_add, BitVec.toNat_ofNat, BitVec.toNat_ofNat, hopc, hword]
  omega

/-- Settles O27: the fold over the columns writes each of them once, and its frame is that of one column. -/
theorem snsSampleGridResult : Obligations.SnsSampleGridResult := by
  refine fun sn row s => ⟨fun hdone => ⟨_, execSnsSample_of_done hdone row, fun c r => ?_, ?_⟩, fun hcal => ?_⟩
  · simp only [Sensor.sample_grid, eq_effectiveRow_iff]
    rfl
  · obtain ⟨_, _, _, _, heq⟩ := Sensor.sample_frame s.build s.ain row.toNat (s.sns[sn.val])
    rw [heq]
  · rw [execSnsSample_of_calibrating hcal, encode_snsSample]
    rfl

/-! ## The peak tracker -/

/-- The tracker of `y` is that of `x`, which no value of the columns `l` exceeds. -/
structure Sensor.KeepsPeak (value : Fin 16 → Word) (l : List (Fin 16)) (x y : Sensor) : Prop where
  peakVal : y.peakVal = x.peakVal
  peakCol : y.peakCol = x.peakCol
  peakRow : y.peakRow = x.peakRow
  exceeds : ∀ c ∈ l, fgt (value c) x.peakVal = false

/-- The tracker of `y` is the first of the columns `l` with the largest value, in row `er`, and exceeds that of `x`. -/
structure Sensor.MovesPeak (value : Fin 16 → Word) (l : List (Fin 16)) (er : Fin 16) (x y : Sensor) : Prop where
  mem : y.peakCol ∈ l
  peakVal : y.peakVal = value y.peakCol
  peakRow : y.peakRow = er
  grows : fgt y.peakVal x.peakVal = true
  largest : ∀ c ∈ l, fgt (value c) y.peakVal = false
  first : ∀ c ∈ l, c < y.peakCol → fge (value c) y.peakVal = false

theorem fgt_of_fge_of_fgt {a b c : Word} (h : fge a b = true) (h' : fgt b c = true) : fgt a c = true := by
  rw [fge_iff] at h
  rw [fgt_iff] at *
  exact ⟨h.1, h'.2.1, h'.2.2.trans_le h.2.2⟩

/-- What does not exceed a value is below a larger one. -/
theorem fge_eq_false_of_not_fgt {a b c : Word} (h : fgt a c = false) (h' : fgt b c = true) : fge a b = false := by
  rw [Bool.eq_false_iff] at *
  exact fun hge => h (fgt_of_fge_of_fgt hge h')

/-- The tracker after one column. -/
theorem Sensor.sampleColumn_peak (ain : Vector Word 16) (er : Fin 16) (x : Sensor) (c : Fin 16) :
    (fgt (x.columnValue ain c) x.peakVal = false ∧ (x.sampleColumn ain er c).peakVal = x.peakVal ∧
      (x.sampleColumn ain er c).peakCol = x.peakCol ∧ (x.sampleColumn ain er c).peakRow = x.peakRow) ∨
    (fgt (x.columnValue ain c) x.peakVal = true ∧ (x.sampleColumn ain er c).peakVal = x.columnValue ain c ∧
      (x.sampleColumn ain er c).peakCol = c ∧ (x.sampleColumn ain er c).peakRow = er) := by
  unfold Sensor.sampleColumn
  dsimp only
  split
  next hgt => exact .inr ⟨hgt, rfl, rfl, rfl⟩
  next hgt => exact .inl ⟨Bool.eq_false_iff.2 hgt, rfl, rfl, rfl⟩

section Scan

variable {value : Fin 16 → Word} {l : List (Fin 16)} {er d : Fin 16} {x z y : Sensor}

/-- A column that leaves the tracker as it was comes before a scan that leaves it so too. -/
theorem Sensor.KeepsPeak.cons_of_kept (h : z.KeepsPeak value l y) (hd : fgt (value d) x.peakVal = false)
    (hval : z.peakVal = x.peakVal) (hcol : z.peakCol = x.peakCol) (hrow : z.peakRow = x.peakRow) :
    x.KeepsPeak value (d :: l) y where
  peakVal := h.peakVal.trans hval
  peakCol := h.peakCol.trans hcol
  peakRow := h.peakRow.trans hrow
  exceeds := List.forall_mem_cons.2 ⟨hd, hval ▸ h.exceeds⟩

/-- A column that the tracker moves to stays its place over later columns that do not exceed it. -/
theorem Sensor.KeepsPeak.cons_of_moved (h : z.KeepsPeak value l y) (hl : (d :: l).Pairwise (· < ·))
    (hd : fgt (value d) x.peakVal = true) (hval : z.peakVal = value d) (hcol : z.peakCol = d) (hrow : z.peakRow = er) :
    x.MovesPeak value (d :: l) er y := by
  have hcol' : y.peakCol = d := h.peakCol.trans hcol
  have hval' : y.peakVal = value d := h.peakVal.trans hval
  have hrise : ∀ c ∈ d :: l, ¬ c < d :=
    List.forall_mem_cons.2 ⟨lt_irrefl d, fun c hc => ((List.pairwise_cons.1 hl).1 c hc).asymm⟩
  exact {
    mem := hcol' ▸ List.mem_cons_self
    peakVal := by rw [hval', hcol']
    peakRow := h.peakRow.trans hrow
    grows := hval' ▸ hd
    largest := by rw [hval']; exact List.forall_mem_cons.2 ⟨fgt_irrefl _, hval ▸ h.exceeds⟩
    first := fun c hc hlt => absurd (hcol' ▸ hlt) (hrise c hc) }

/-- A column that does not exceed the tracker is below the value that a later scan moves it to. -/
theorem Sensor.MovesPeak.cons (h : z.MovesPeak value l er y) (hd : fgt (value d) z.peakVal = false)
    (hgrows : fgt y.peakVal x.peakVal = true) : x.MovesPeak value (d :: l) er y := by
  have hbelow := fge_eq_false_of_not_fgt hd h.grows
  exact { h with
    mem := List.mem_cons_of_mem d h.mem
    grows := hgrows
    largest := List.forall_mem_cons.2 ⟨Bool.eq_false_iff.2 (mt fge_of_fgt (Bool.eq_false_iff.1 hbelow)), h.largest⟩
    first := List.forall_mem_cons.2 ⟨fun _ => hbelow, h.first⟩ }

end Scan

/-- A scan over rising columns keeps the tracker or moves it to the first of the largest values. -/
theorem Sensor.sampleFold_peak (ain : Vector Word 16) (er : Fin 16) {l : List (Fin 16)} (hl : l.Pairwise (· < ·))
    (x : Sensor) :
    x.KeepsPeak (x.columnValue ain) l (l.foldl (Sensor.sampleColumn ain er) x) ∨
      x.MovesPeak (x.columnValue ain) l er (l.foldl (Sensor.sampleColumn ain er) x) := by
  induction l generalizing x with
  | nil => exact .inl ⟨rfl, rfl, rfl, by simp⟩
  | cons d l ih =>
    have hrest := ih (List.Pairwise.of_cons hl) (x.sampleColumn ain er d)
    rw [Sensor.sampleColumn_columnValue] at hrest
    rw [List.foldl_cons]
    rcases Sensor.sampleColumn_peak ain er x d with ⟨hd, hval, hcol, hrow⟩ | ⟨hd, hval, hcol, hrow⟩
    · exact hrest.imp (fun h => h.cons_of_kept hd hval hcol hrow) fun h => h.cons (hval ▸ hd) (hval ▸ h.grows)
    · refine .inr (hrest.elim (fun h => h.cons_of_moved hl hd hval hcol hrow) fun h => ?_)
      exact h.cons (hval ▸ fgt_irrefl _) (fgt_trans (hval ▸ h.grows) hd)

/-- The tracker after a row read (R321). -/
theorem Sensor.sample_peak (b : Build) (ain : Vector Word 16) (row : ℕ) (x : Sensor) :
    x.KeepsPeak (x.columnValue ain) (columns b) (x.sample b ain row) ∨
      x.MovesPeak (x.columnValue ain) (columns b) (effectiveRow b row) (x.sample b ain row) :=
  Sensor.sampleFold_peak ain _ (columns_sorted b) x

/-- Settles O28: the scan keeps the tracker when no value exceeds it, and moves it when one does. -/
theorem snsSampleTracksPeak : Obligations.SnsSampleTracksPeak := by
  intro sn row s t x y value hdone hexec
  rw [execSnsSample_of_done hdone] at hexec
  cases hexec
  have hy : y = x.sample s.build s.ain row.toNat := State.setSns_self sn _ s
  have hpeak := x.sample_peak s.build s.ain row.toNat
  rw [← hy] at hpeak
  have hvalue : value = x.columnValue s.ain := rfl
  simp only [← mem_columns, hvalue]
  rcases hpeak with h | h
  · refine ⟨fun c hc => ?_, fun _ => ⟨h.peakVal, h.peakCol, h.peakRow⟩, fun ⟨c, hc, hgt⟩ => ?_⟩
    · rw [h.peakVal]
      exact h.exceeds c hc
    · exact absurd hgt (Bool.eq_false_iff.1 (h.exceeds c hc))
  · have hrow := (eq_effectiveRow_iff _ _ _).1 h.peakRow
    refine ⟨h.largest, fun hnone => ?_, fun _ => ⟨h.mem, h.peakVal, hrow, h.grows, fun c hc => h.first c ?_ hc⟩⟩
    · exact absurd (h.peakVal ▸ h.grows) (Bool.eq_false_iff.1 (hnone _ h.mem))
    · exact (mem_columns _ _).2 ((Fin.lt_def.1 hc).trans ((mem_columns _ _).1 h.mem))

end Sys2Proof.Machine
end

section
/-!
The resolver of a sensor (43_sequencer.md R302, R303, R322): its three filter steps, and the offset of a symmetric peak.
-/

namespace Sys2Proof.Machine

/-! ## The command -/

theorem execSnsResolve_of_done {sn : Fin 2} {s : State} (h : (s.sns[sn.val]).calState = .done) :
    exec (.snsResolve sn) s = .next (resolve sn s) :=
  if_neg (not_not.2 h)

theorem execSnsResolve_of_calibrating {sn : Fin 2} {s : State} (h : (s.sns[sn.val]).calState ≠ .done) :
    exec (.snsResolve sn) s = .next (raise .errOrder (encode (.snsResolve sn)) s) :=
  if_pos h

theorem encode_snsResolve (sn : Fin 2) : encode (.snsResolve sn) = 0x33000000 + BitVec.ofNat 32 sn.val := by
  revert sn; decide

/-- The three filters of a sensor are three, so each step reads the filter as the command finds it (R2, R322). -/
theorem resolve_eq (sn : Fin 2) (s : State) :
    let x := s.sns[sn.val]
    let px := x.rawX s.build
    let py := x.rawY s.build
    let fx := s.flt[(sensorFilter sn 0).val]
    let fy := s.flt[(sensorFilter sn 1).val]
    let fz := s.flt[(sensorFilter sn 2).val]
    resolve sn s =
      (noteDegen (px.2 || py.2) (((s.setFlt (sensorFilter sn 0) (fx.lpShift px.1)).setFlt
        (sensorFilter sn 1) (fy.lpShift py.1)).setFlt (sensorFilter sn 2) (fz.lpShift x.peakVal))).setSns sn
      { x with
        posX := fx.lpOut px.1
        posY := fy.lpOut py.1
        posZ := fz.lpOut x.peakVal
        peakVal := ZERO
        peakCol := 0
        peakRow := 0 } := by
  have h01 : sensorFilter sn 0 ≠ sensorFilter sn 1 := by revert sn; decide
  have h02 : sensorFilter sn 0 ≠ sensorFilter sn 2 := by revert sn; decide
  have h12 : sensorFilter sn 1 ≠ sensorFilter sn 2 := by revert sn; decide
  simp only [resolve, lpApply_fst, lpApply_snd, State.setFlt_other _ _ h01, State.setFlt_other _ _ h02,
    State.setFlt_other _ _ h12]

/-- Interp as its offset and whether its denominator is a zero (R302). -/
theorem interp_eq (α β γ : Word) : interp α β γ =
    (if feq (fmul TWO (fadd (fsub γ (fmul TWO β)) α)) ZERO then ZERO
      else fdiv (fsub α γ) (fmul TWO (fadd (fsub γ (fmul TWO β)) α)),
    feq (fmul TWO (fadd (fsub γ (fmul TWO β)) α)) ZERO) := by
  unfold interp
  dsimp only
  split
  next h => rw [h]
  next h => rw [Bool.eq_false_iff.2 h]

/-- Settles O29: `resolve_eq` with the pseudocode of Interp written out. -/
theorem snsResolveResult : Obligations.SnsResolveResult := by
  refine fun sn s => ⟨fun hdone => ?_, fun hcal => ?_⟩
  · rw [execSnsResolve_of_done hdone, resolve_eq]
    simp only [Sensor.rawX, Sensor.rawY, axisPosition, interp_eq]
    rfl
  · rw [execSnsResolve_of_calibrating hcal, encode_snsResolve]
    rfl

end Sys2Proof.Machine
end

section
/-!
The offset of a symmetric peak (43_sequencer.md R303): doubling is exact up to overflow, so the denominator is far
enough from zero.
-/

namespace Sys2Proof.Machine

/-! ## Doubling -/

theorem toRat_TWO : toRat TWO = 2 := by
  have hsigned : fsigned TWO = 2 ^ 23 := by decide
  have hscale : fscale TWO = -22 := by decide
  rw [toRat, hsigned, hscale]
  norm_num

/-- Twice a magnitude is a magnitude: a subnormal significand doubles, and a normal one keeps and the exponent counts
up. -/
theorem exists_magnitude_double (k : ℕ) : ∃ j, magnitude j = 2 * magnitude k := by
  rcases lt_or_ge k (2 ^ 23) with hsub | hnormal
  · refine ⟨2 * k, ?_⟩
    have hk := magnitude_unit (u := 0) (q := k) (by omega) (.inl rfl)
    have hj := magnitude_unit (u := 0) (q := 2 * k) (by omega) (.inl rfl)
    rw [Nat.zero_mul, Nat.zero_add] at hk hj
    rw [hk, hj]
    push_cast
    ring
  · obtain ⟨u, q, rfl, hlo, hhi⟩ : ∃ u q, k = u * 2 ^ 23 + q ∧ 2 ^ 23 ≤ q ∧ q ≤ 2 ^ 24 :=
      ⟨k / 2 ^ 23 - 1, k % 2 ^ 23 + 2 ^ 23, by omega, by omega, by omega⟩
    refine ⟨(u + 1) * 2 ^ 23 + q, ?_⟩
    rw [magnitude_unit hhi (.inr hlo), magnitude_unit hhi (.inr hlo), Nat.cast_add_one, add_sub_right_comm,
      zpow_add_one₀ two_ne_zero]
    ring

theorem overflowBound_le_magnitude {j : ℕ} (h : 0x7F800000 ≤ j) : overflowBound ≤ magnitude j := by
  have hnext : magnitude (0x7F800000 - 1) < magnitude j := magnitude_strictMono (by omega)
  have hle := magnitude_strictMono.monotone h
  have hmag : magnitude 0x7F800000 = 2 ^ 128 := by norm_num [magnitude]
  rw [hmag] at hle
  refine le_trans ?_ hle
  norm_num [overflowBound]

/-- Twice a finite word is exact or overflows. -/
theorem fmul_TWO_cases {x : Word} (hx : isFinite x = true) :
    (∃ neg, fmul TWO x = finf neg) ∨ isFinite (fmul TWO x) = true ∧ toRat (fmul TWO x) = 2 * toRat x := by
  have hround := (multiplicationRoundsCorrectly TWO x (by decide) hx).1
  rw [toRat_TWO] at hround
  obtain ⟨j, hj⟩ := exists_magnitude_double (x.toNat % 2 ^ 31)
  rcases lt_or_ge j 0x7F800000 with hlt | hge
  · right
    have hval : toRat (packWord (fsign x) j) = 2 * toRat x := by
      rw [toRat_packWord (by omega), hj, toRat_eq_magnitude x, mul_comm, withSign_mul_right, mul_comm]
    rw [← hval] at hround ⊢
    exact hround.exact (isFinite_packWord hlt)
  · left
    have habs : |2 * toRat x| = magnitude j := by rw [abs_mul, abs_toRat, hj, abs_two]
    exact ⟨_, hround.overflow (habs ▸ overflowBound_le_magnitude hge)⟩

/-! ## Words that are non-zero numbers -/

/-- A number other than a zero: not NaN, but possibly an infinity. -/
def IsNonzero (x : Word) : Prop := isNaN x = false ∧ isZero x = false

theorem isNonzero_finf (neg : Bool) : IsNonzero (finf neg) := ⟨isNaN_finf neg, isZero_finf neg⟩

theorem isNonzero_of_finite {x : Word} (hx : isFinite x = true) (h : toRat x ≠ 0) : IsNonzero x :=
  ⟨isNaN_of_isFinite hx, Bool.eq_false_iff.2 (mt (toRat_eq_zero_iff x).2 h)⟩

/-- Equality with +0.0 is being a zero. -/
theorem feq_ZERO (x : Word) : feq x ZERO = isZero x := by
  rw [Bool.eq_iff_iff, feq_iff, fkey_eq_iff, toRat_ZERO, toRat_eq_zero_iff]
  exact ⟨fun h => h.2.2, fun h => ⟨isNaN_of_isFinite (isFinite_of_isZero h), by decide, h⟩⟩

/-- A zero divided by a non-zero number is a zero. -/
theorem isZero_fdiv {a b : Word} (ha : isZero a = true) (hb : IsNonzero b) : isZero (fdiv a b) = true := by
  have haf := isFinite_of_isZero ha
  have hzero : ∀ neg, isZero (fzero neg) = true := by decide
  obtain ⟨hnan, hz⟩ := hb
  simp [fdiv, isNaN_of_isFinite haf, isInf_of_isFinite haf, ha, hnan, hz, hzero]

/-- What is at least as large as a finite word is rounded to a word at least as large. -/
theorem RoundsTo.cases_of_abs_le {e : ℚ} {r c : Word} (h : RoundsTo e r) (hc : isFinite c = true)
    (hle : |toRat c| ≤ |e|) : (∃ neg, r = finf neg) ∨ isFinite r = true ∧ |toRat c| ≤ |toRat r| := by
  rcases le_or_gt overflowBound |e| with hover | hlt
  · exact .inl ⟨_, h.overflow hover⟩
  refine .inr ⟨h.finite hlt, ?_⟩
  have hk := (isFinite_iff_lt c).1 hc
  have hnear : ∀ neg, |toRat r - e| ≤ |withSign neg |toRat c| - e| := fun neg => by
    rw [abs_toRat, ← toRat_packWord (by omega)]
    exact h.nearest hlt _ (isFinite_packWord hk)
  rcases le_total 0 e with he | he
  · have hdist := hnear false
    rw [abs_of_nonneg he] at hle
    rw [withSign_false, abs_of_nonpos (sub_nonpos.2 hle)] at hdist
    exact le_abs.2 (.inl (by linarith [neg_le_of_abs_le hdist]))
  · have hdist := hnear true
    rw [abs_of_nonpos he] at hle
    rw [withSign_true, abs_of_nonneg (sub_nonneg.2 (le_neg_of_le_neg hle))] at hdist
    exact le_abs.2 (.inr (by linarith [le_of_abs_le hdist]))

theorem isNonzero_fmul_TWO {x : Word} (h : IsNonzero x) : IsNonzero (fmul TWO x) := by
  cases hinf : isInf x
  case true =>
    have heq : fmul TWO x = finf (fsign TWO != fsign x) := by
      simp [fmul, h.1, h.2, hinf, show isNaN TWO = false by decide, show isZero TWO = false by decide]
    rw [heq]
    exact isNonzero_finf _
  case false =>
    have hx : isFinite x = true := (isFinite_iff x).2 ⟨h.1, hinf⟩
    rcases fmul_TWO_cases hx with ⟨neg, heq⟩ | ⟨hfin, hval⟩
    · rw [heq]
      exact isNonzero_finf neg
    · refine isNonzero_of_finite hfin ?_
      rw [hval]
      exact mul_ne_zero two_ne_zero (mt (toRat_eq_zero_iff x).1 (Bool.eq_false_iff.1 h.2))

/-! ## The denominator -/

/-- The rounded v − 4v is at least as large as 2v. -/
theorem fsub_quadruple_cases {v : Word} (hv : isFinite v = true) :
    (∃ neg, fsub v (fmul TWO (fmul TWO v)) = finf neg) ∨
      isFinite (fsub v (fmul TWO (fmul TWO v))) = true ∧
        2 * |toRat v| ≤ |toRat (fsub v (fmul TWO (fmul TWO v)))| := by
  rcases fmul_TWO_cases hv with ⟨neg, heq⟩ | ⟨htwice, htwiceVal⟩
  · rw [heq, fmul_finf_right (by decide) (by decide), fsub_finf_right hv]
    exact .inl ⟨_, rfl⟩
  rcases fmul_TWO_cases htwice with ⟨neg, heq⟩ | ⟨hquad, hquadVal⟩
  · rw [heq, fsub_finf_right hv]
    exact .inl ⟨_, rfl⟩
  have habs : |toRat (fmul TWO v)| = 2 * |toRat v| := by rw [htwiceVal, abs_mul, abs_two]
  have hdiff : toRat v - toRat (fmul TWO (fmul TWO v)) = -3 * toRat v := by rw [hquadVal, htwiceVal]; ring
  have hround := (additionRoundsCorrectly v _ hv hquad).2.1
  rw [hdiff] at hround
  rw [← habs]
  refine hround.cases_of_abs_le htwice ?_
  rw [habs, abs_mul, abs_neg, abs_of_pos (three_pos : (0 : ℚ) < 3)]
  linarith [abs_nonneg (toRat v)]

/-- The sum in the denominator of a symmetric peak is no zero. -/
theorem isNonzero_symmetric_sum {v : Word} (hv : isFinite v = true) (hz : isZero v = false) :
    IsNonzero (fadd (fsub v (fmul TWO (fmul TWO v))) v) := by
  rcases fsub_quadruple_cases hv with ⟨neg, heq⟩ | ⟨hfin, hle⟩
  · rw [heq, fadd_finf_left hv]
    exact isNonzero_finf neg
  · have hne : toRat v ≠ 0 := mt (toRat_eq_zero_iff v).1 (Bool.eq_false_iff.1 hz)
    have habs : |toRat v| ≤ |toRat (fsub v (fmul TWO (fmul TWO v))) + toRat v| := by
      have htri := abs_sub_abs_le_abs_add (toRat (fsub v (fmul TWO (fmul TWO v)))) (toRat v)
      linarith
    rcases (fadd_roundsTo hfin hv).cases_of_abs_le hv habs with ⟨neg, heq⟩ | ⟨hfin', hle'⟩
    · rw [heq]
      exact isNonzero_finf neg
    · exact isNonzero_of_finite hfin' (abs_pos.1 ((abs_pos.2 hne).trans_le hle'))

/-! ## A peak of zeros -/

theorem isZero_fzero (neg : Bool) : isZero (fzero neg) = true := by revert neg; decide

theorem isZero_fadd {a b : Word} (ha : isZero a = true) (hb : isZero b = true) : isZero (fadd a b) = true := by
  rw [fadd_of_zero_sum (isFinite_of_isZero ha) (isFinite_of_isZero hb)
    (by rw [(toRat_eq_zero_iff a).2 ha, (toRat_eq_zero_iff b).2 hb, add_zero])]
  exact isZero_fzero _

theorem isZero_fneg {x : Word} (h : isZero x = true) : isZero (fneg x) = true := by
  rw [← toRat_eq_zero_iff, toRat_fneg, (toRat_eq_zero_iff x).2 h, neg_zero]

theorem isZero_fmul_TWO {x : Word} (h : isZero x = true) : isZero (fmul TWO x) = true := by
  rw [fmul_of_zero (by decide) (isFinite_of_isZero h) (.inr h)]
  exact isZero_fzero _

theorem isZero_fsub_self {v : Word} (hv : isFinite v = true) : isZero (fsub v v) = true := by
  rw [fsub, fadd_of_zero_sum hv ((isFinite_fneg v).trans hv) (by rw [toRat_fneg, add_neg_cancel])]
  exact isZero_fzero _

/-- Settles O37: the numerator is a zero, and the denominator is one only for a zero `v`. -/
theorem symmetricPeakHasZeroOffset : Obligations.SymmetricPeakHasZeroOffset := by
  intro v hv
  rw [interp_eq, feq_ZERO]
  cases hz : isZero v
  case true =>
    have hquad := isZero_fmul_TWO (isZero_fmul_TWO hz)
    have hden := isZero_fmul_TWO (isZero_fadd (isZero_fadd hz (isZero_fneg hquad)) hz)
    rw [← fsub] at hden
    simp only [hden, if_true, and_true]
    decide
  case false =>
    have hden := isNonzero_fmul_TWO (isNonzero_symmetric_sum hv hz)
    simp only [hden.2, Bool.false_eq_true, if_false, and_true]
    exact isZero_fdiv (isZero_fsub_self hv) hden

end Sys2Proof.Machine
end

section
/-!
The frame of the sequencer (43_sequencer.md R310, R311): which commands it is, and what any number of frames from two
Idle sensors leaves.
-/

namespace Sys2Proof.Machine

/-! ## One frame -/

/-- The state after SEQ_FRAME (R310). -/
def scanFrame (s : State) : State :=
  if (s.sns[0]).calState ≠ .done then tick 0 s
  else if (s.sns[1]).calState ≠ .done then tick 1 s
  else samplingFrame s

/-- The state after row ROW of both sensors. -/
def sampledRows (s : State) : State := sampleRow 1 s.seq.row.val (sampleRow 0 s.seq.row.val s)

section Frame

variable {s : State}

theorem execSeqFrame_eq (s : State) : exec .seqFrame s = .next (scanFrame s) := by
  simp only [exec, execSeqFrame, scanFrame]
  split_ifs <;> rfl

theorem scanFrame_of_first_calibrating (h0 : (s.sns[0]).calState ≠ .done) : scanFrame s = tick 0 s := if_pos h0

theorem scanFrame_of_second_calibrating (h0 : (s.sns[0]).calState = .done) (h1 : (s.sns[1]).calState ≠ .done) :
    scanFrame s = tick 1 s := by
  rw [scanFrame, if_neg (not_not.2 h0), if_pos h1]

theorem scanFrame_of_done (h0 : (s.sns[0]).calState = .done) (h1 : (s.sns[1]).calState = .done) :
    scanFrame s = samplingFrame s := by
  rw [scanFrame, if_neg (not_not.2 h0), if_neg (not_not.2 h1)]

theorem samplingFrame_of_last (h : s.seq.row.val = s.build.dim - 1) :
    samplingFrame s = (resolve 1 (resolve 0 (sampledRows s))).setSeq
      { s.seq with row := 0, cycles := s.seq.cycles + 1 } := if_pos h

theorem samplingFrame_of_not_last (h : s.seq.row.val ≠ s.build.dim - 1) :
    samplingFrame s = (sampledRows s).setSeq { s.seq with row := s.seq.row + 1 } := if_neg h

theorem sampledRows_calibration (s : State) (j : Fin 2) :
    (s.sns[j.val]).SameCalibration ((sampledRows s).sns[j.val]) :=
  (sampleRow_calibration 0 _ s j).trans (sampleRow_calibration 1 _ _ j)

/-- ROW as the ARG field of SNS_SAMPLE. -/
theorem ofNat_row_toNat (r : Fin 16) : (BitVec.ofNat 8 r.val).toNat = r.val := by
  rw [BitVec.toNat_ofNat]
  omega

end Frame

/-- Settles O30: `samplingFrame` is the bodies of the commands, which find both sensors Done. -/
theorem seqFrameResult : Obligations.SeqFrameResult := by
  refine fun s => ⟨fun h0 => ?_, fun h0 h1 => ?_, fun h0 h1 => ?_⟩
  · rw [execSeqFrame_eq, scanFrame_of_first_calibrating h0, execSnsTick_eq]
  · rw [execSeqFrame_eq, scanFrame_of_second_calibrating h0 h1, execSnsTick_eq]
  have hdone1 : ((sampleRow 0 s.seq.row.val s).sns[1]).calState = .done :=
    (sampleRow_calibration 0 _ s 1).1.trans h1
  have hrow := ofNat_row_toNat s.seq.row
  refine ⟨sampleRow 0 s.seq.row.val s, sampledRows s, ?_, ?_, fun hrow => ?_, fun hrow => ?_⟩
  · rw [execSnsSample_of_done (sn := 0) h0, hrow]
  · rw [execSnsSample_of_done (sn := 1) hdone1, hrow]
    rfl
  · rw [execSeqFrame_eq, scanFrame_of_done h0 h1, samplingFrame_of_not_last hrow]
    rfl
  · have hdone2 : ((sampledRows s).sns[0]).calState = .done := (sampledRows_calibration s 0).1.trans h0
    have hdone3 : ((resolve 0 (sampledRows s)).sns[1]).calState = .done :=
      (resolve_calibration 0 _ 1).1.trans ((sampledRows_calibration s 1).1.trans h1)
    refine ⟨_, _, execSnsResolve_of_done (sn := 0) hdone2, execSnsResolve_of_done (sn := 1) hdone3, ?_⟩
    rw [execSeqFrame_eq, scanFrame_of_done h0 h1, samplingFrame_of_last hrow]
    rfl

/-! ## What a frame keeps -/

/-- What the calibration of a sensor keeps: its grid, its tracker and its position (R321, R322). -/
def Sensor.SameSamples (x y : Sensor) : Prop :=
  y.grid = x.grid ∧ y.peakVal = x.peakVal ∧ y.peakCol = x.peakCol ∧ y.peakRow = x.peakRow ∧
    y.posX = x.posX ∧ y.posY = x.posY ∧ y.posZ = x.posZ

theorem tick_samples (sn : Fin 2) (s : State) (j : Fin 2) :
    (s.sns[j.val]).SameSamples ((tick sn s).sns[j.val]) := by
  obtain ⟨_, _, _, _, hframe⟩ := Sensor.tick_frame s.build s.seq.calDur s.ain (s.sns[j.val])
  rcases tick_sns sn j s with heq | heq
  · rw [heq]
    exact ⟨rfl, rfl, rfl, rfl, rfl, rfl, rfl⟩
  · rw [heq, hframe]
    exact ⟨rfl, rfl, rfl, rfl, rfl, rfl, rfl⟩

theorem Sensor.SameSamples.trans {x y z : Sensor} (h : x.SameSamples y) (h' : y.SameSamples z) : x.SameSamples z := by
  obtain ⟨hgrid, hval, hcol, hrow, hx, hy, hz⟩ := h
  obtain ⟨hgrid', hval', hcol', hrow', hx', hy', hz'⟩ := h'
  exact ⟨hgrid'.trans hgrid, hval'.trans hval, hcol'.trans hcol, hrow'.trans hrow, hx'.trans hx, hy'.trans hy,
    hz'.trans hz⟩

/-- Two sensors with one position (R65). -/
def Sensor.SamePosition (x y : Sensor) : Prop := y.posX = x.posX ∧ y.posY = x.posY ∧ y.posZ = x.posZ

theorem sampleRow_position (sn : Fin 2) (row : ℕ) (s : State) (j : Fin 2) :
    (s.sns[j.val]).SamePosition ((sampleRow sn row s).sns[j.val]) := by
  by_cases h : sn = j
  · subst h
    obtain ⟨_, _, _, _, hframe⟩ := Sensor.sample_frame s.build s.ain row (s.sns[sn.val])
    rw [sampleRow, State.setSns_self, hframe]
    exact ⟨rfl, rfl, rfl⟩
  · rw [sampleRow, State.setSns_other sn j h]
    exact ⟨rfl, rfl, rfl⟩

theorem sampledRows_position (s : State) (j : Fin 2) :
    (s.sns[j.val]).SamePosition ((sampledRows s).sns[j.val]) := by
  obtain ⟨hx, hy, hz⟩ := sampleRow_position 0 s.seq.row.val s j
  obtain ⟨hx', hy', hz'⟩ := sampleRow_position 1 s.seq.row.val (sampleRow 0 s.seq.row.val s) j
  exact ⟨hx'.trans hx, hy'.trans hy, hz'.trans hz⟩

/-- Done sensors keep their calibration under any number of frames (R311). -/
theorem scanFrame_iterate_calibration {s : State} {sn : Fin 2} {m n : ℕ} (hmn : m ≤ n)
    (hdone : ((scanFrame^[m] s).sns[sn.val]).calState = .done) :
    ((scanFrame^[m] s).sns[sn.val]).SameCalibration ((scanFrame^[n] s).sns[sn.val]) := by
  obtain ⟨k, rfl⟩ := Nat.exists_eq_add_of_le' hmn
  rw [Function.iterate_add_apply]
  clear hmn
  induction k with
  | zero => exact ⟨rfl, rfl, rfl, rfl, rfl⟩
  | succ k ih =>
    rw [Function.iterate_succ_apply']
    have hk := ih hdone
    exact hk.trans ((exec_effect (execSeqFrame_eq _)).done_calibration (hk.1.trans hdone))

/-! ## A number of frames -/

/-- The row and the cycle that follow `m` sampled rows. -/
theorem row_cycle_step {dim m : ℕ} (hdim : 2 ≤ dim) :
    (m % dim = dim - 1 → (m + 1) / dim = m / dim + 1 ∧ (m + 1) % dim = 0) ∧
    (m % dim ≠ dim - 1 → (m + 1) / dim = m / dim ∧ (m + 1) % dim = m % dim + 1) := by
  have hlt := Nat.mod_lt m (show 0 < dim by omega)
  have hsum := Nat.mod_add_div m dim
  rw [Nat.div_mod_unique (by omega), Nat.div_mod_unique (by omega), Nat.mul_add_one]
  omega

/-- `t` is `n` frames from `s`, whose sensors were Idle, in phases of `d` ticks (R311). -/
structure FramedFor (s : State) (d n : ℕ) (t : State) : Prop where
  build : t.build = s.build
  calDur : t.seq.calDur = s.seq.calDur
  ticked0 : (t.sns[0]).TickedFor d n
  ticked1 : (t.sns[1]).TickedFor d (n - 2 * d)
  row : t.seq.row.val = (n - 4 * d) % s.build.dim
  cycles : t.seq.cycles.toNat = (n - 4 * d) / s.build.dim % 2 ^ 32
  unsampled : n ≤ 4 * d → ∀ sn : Fin 2, (s.sns[sn.val]).SameSamples (t.sns[sn.val])

section Frames

variable {s t : State} {d n : ℕ}

theorem FramedFor.done0_iff (h : FramedFor s d n t) (hd : 1 ≤ d) : (t.sns[0]).calState = .done ↔ 2 * d ≤ n :=
  h.ticked0.done_iff hd

theorem FramedFor.done1_iff (h : FramedFor s d n t) (hd : 1 ≤ d) : (t.sns[1]).calState = .done ↔ 4 * d ≤ n := by
  rw [h.ticked1.done_iff hd]
  omega

/-- A calibrating frame ticks one sensor (R310). -/
theorem FramedFor.tick (h : FramedFor s d n t) (hn : n < 4 * d) (sn : Fin 2)
    (h0 : ((Machine.tick sn t).sns[0]).TickedFor d (n + 1))
    (h1 : ((Machine.tick sn t).sns[1]).TickedFor d (n + 1 - 2 * d)) : FramedFor s d (n + 1) (Machine.tick sn t) where
  build := h.build
  calDur := h.calDur
  ticked0 := h0
  ticked1 := h1
  row := by rw [Nat.sub_eq_zero_of_le hn, ← Nat.sub_eq_zero_of_le hn.le]; exact h.row
  cycles := by rw [Nat.sub_eq_zero_of_le hn, ← Nat.sub_eq_zero_of_le hn.le]; exact h.cycles
  unsampled _ j := (h.unsampled hn.le j).trans (tick_samples sn t j)

theorem Sensor.SameCalibration.tickedFor {x y : Sensor} (h : x.SameCalibration y) (hx : x.TickedFor d n) :
    y.TickedFor d n := by
  rw [Sensor.TickedFor, h.1, h.2.1]
  exact hx

/-- After a sampling frame ROW and CYCLES count one row more. -/
theorem samplingFrame_counts {m : ℕ} (hrow : t.seq.row.val = m % t.build.dim)
    (hcycles : t.seq.cycles.toNat = m / t.build.dim % 2 ^ 32) :
    (samplingFrame t).seq.row.val = (m + 1) % t.build.dim ∧
      (samplingFrame t).seq.cycles.toNat = (m + 1) / t.build.dim % 2 ^ 32 := by
  obtain ⟨hlast, hnext⟩ := row_cycle_step (m := m) t.build.dim_ge
  by_cases hr : t.seq.row.val = t.build.dim - 1
  · obtain ⟨hdiv, hmod⟩ := hlast (hrow ▸ hr)
    rw [samplingFrame_of_last hr, State.setSeq_seq, hdiv, hmod]
    refine ⟨rfl, ?_⟩
    rw [BitVec.toNat_add, hcycles]
    exact Nat.mod_add_mod ..
  · obtain ⟨hdiv, hmod⟩ := hnext (hrow ▸ hr)
    have hdim := t.build.dim_ge
    have hdim' := t.build.dim_le
    have hlt := Nat.mod_lt m (show 0 < t.build.dim by omega)
    have hfin : t.seq.row < Fin.last 15 := Fin.lt_def.2 (by rw [Fin.val_last]; omega)
    rw [samplingFrame_of_not_last hr, State.setSeq_seq, hdiv, hmod, Fin.val_add_one_of_lt hfin, hrow]
    exact ⟨rfl, hcycles⟩

/-- A frame on from `4d` frames samples (R310). -/
theorem FramedFor.samplingFrame (h : FramedFor s d n t) (hd : 1 ≤ d) (hn : 4 * d ≤ n) :
    FramedFor s d (n + 1) (Machine.samplingFrame t) := by
  obtain ⟨_, _, _, _, _, heq, -⟩ := samplingFrame_frame t
  obtain ⟨hrow, hcycles⟩ := samplingFrame_counts (h.build ▸ h.row) (h.build ▸ h.cycles)
  rw [← Nat.sub_add_comm hn, h.build] at hrow hcycles
  exact {
    build := by rw [heq]; exact h.build
    calDur := by rw [heq]; exact h.calDur
    ticked0 := (samplingFrame_calibration t 0).tickedFor (h.ticked0.of_done hd (by omega) (by omega))
    ticked1 := (samplingFrame_calibration t 1).tickedFor (h.ticked1.of_done hd (by omega) (by omega))
    row := hrow
    cycles := hcycles
    unsampled := fun hle => by omega }

/-- A frame takes the state from one number of frames to the next. -/
theorem FramedFor.scanFrame (h : FramedFor s d n t) (hdur : phaseTicks s.seq.calDur = d) :
    FramedFor s d (n + 1) (Machine.scanFrame t) := by
  have hd : 1 ≤ d := hdur ▸ one_le_phaseTicks _
  have htick : ∀ {x : Sensor} {k : ℕ}, x.TickedFor d k →
      (x.tick t.build t.seq.calDur t.ain).TickedFor d (k + 1) := by
    rw [← hdur, ← h.calDur]
    exact fun hx => hx.tick _ _
  rcases lt_or_ge n (2 * d) with hn | hn
  · have hself : (Machine.tick 0 t).sns[0] = _ := State.setSns_self 0 _ t
    have hother : (Machine.tick 0 t).sns[1] = t.sns[1] := State.setSns_other 0 1 (by decide) _ t
    rw [scanFrame_of_first_calibrating (mt (h.done0_iff hd).1 (by omega))]
    refine h.tick (by omega) 0 (hself ▸ htick h.ticked0) ?_
    rw [hother, Nat.sub_eq_zero_of_le hn, ← Nat.sub_eq_zero_of_le hn.le]
    exact h.ticked1
  rcases lt_or_ge n (4 * d) with hn' | hn'
  · have hself : (Machine.tick 1 t).sns[1] = _ := State.setSns_self 1 _ t
    have hother : (Machine.tick 1 t).sns[0] = t.sns[0] := State.setSns_other 1 0 (by decide) _ t
    rw [scanFrame_of_second_calibrating ((h.done0_iff hd).2 hn) (mt (h.done1_iff hd).1 (by omega))]
    refine h.tick hn' 1 (hother ▸ h.ticked0.of_done hd hn (by omega)) ?_
    rw [hself, Nat.sub_add_comm hn]
    exact htick h.ticked1
  · rw [scanFrame_of_done ((h.done0_iff hd).2 hn) ((h.done1_iff hd).2 hn')]
    exact h.samplingFrame hd hn'

theorem framedFor_zero (h0 : (s.sns[0]).calState = .idle) (h1 : (s.sns[1]).calState = .idle)
    (hcnt0 : (s.sns[0]).calCnt = 0) (hcnt1 : (s.sns[1]).calCnt = 0) (hrow : s.seq.row = 0)
    (hcycles : s.seq.cycles = 0) (d : ℕ) : FramedFor s d 0 s where
  build := rfl
  calDur := rfl
  ticked0 := Sensor.tickedFor_zero h0 hcnt0
  ticked1 := by rw [Nat.zero_sub]; exact Sensor.tickedFor_zero h1 hcnt1
  row := by rw [hrow, Nat.zero_sub, Nat.zero_mod]; rfl
  cycles := by rw [hcycles, Nat.zero_sub, Nat.zero_div]; rfl
  unsampled _ _ := ⟨rfl, rfl, rfl, rfl, rfl, rfl, rfl⟩

theorem FramedFor.iterate (h : FramedFor s d 0 s) (hdur : phaseTicks s.seq.calDur = d) (n : ℕ) :
    FramedFor s d n (Machine.scanFrame^[n] s) := by
  induction n with
  | zero => exact h
  | succ n ih =>
    rw [Function.iterate_succ_apply']
    exact ih.scanFrame hdur

/-- ROW is the last row when the frame completes a cycle. -/
theorem FramedFor.row_eq_last_iff (h : FramedFor s d n t) (hn : 4 * d ≤ n) :
    t.seq.row.val = t.build.dim - 1 ↔ (n + 1 - 4 * d) % s.build.dim = 0 := by
  obtain ⟨hlast, hnext⟩ := row_cycle_step (m := n - 4 * d) s.build.dim_ge
  rw [h.row, h.build, Nat.sub_add_comm hn]
  constructor
  · exact fun hr => (hlast hr).2
  · contrapose!
    intro hr
    rw [(hnext hr).2]
    exact Nat.succ_ne_zero _

/-- A frame that is not the last of a cycle keeps every filter, CYCLES and every position. -/
theorem FramedFor.frame_keeps (h : FramedFor s d n t) (hd : 1 ≤ d)
    (hn : n < 4 * d ∨ (n + 1 - 4 * d) % s.build.dim ≠ 0) :
    (Machine.scanFrame t).flt = t.flt ∧ (Machine.scanFrame t).seq.cycles = t.seq.cycles ∧
      ∀ sn : Fin 2, (t.sns[sn.val]).SamePosition ((Machine.scanFrame t).sns[sn.val]) := by
  have hticked : ∀ j : Fin 2, (Machine.tick j t).flt = t.flt ∧ (Machine.tick j t).seq.cycles = t.seq.cycles ∧
      ∀ sn : Fin 2, (t.sns[sn.val]).SamePosition ((Machine.tick j t).sns[sn.val]) := by
    refine fun j => ⟨rfl, rfl, fun sn => ?_⟩
    obtain ⟨-, -, -, -, hpos⟩ := tick_samples j t sn
    exact hpos
  by_cases h0 : (t.sns[0]).calState = .done
  case neg => rw [scanFrame_of_first_calibrating h0]; exact hticked 0
  by_cases h1 : (t.sns[1]).calState = .done
  case neg => rw [scanFrame_of_second_calibrating h0 h1]; exact hticked 1
  have hle := (h.done1_iff hd).1 h1
  have hrow := mt (h.row_eq_last_iff hle).1 (hn.resolve_left (by omega))
  rw [scanFrame_of_done h0 h1, samplingFrame_of_not_last hrow]
  exact ⟨rfl, rfl, sampledRows_position t⟩

end Frames

/-- Settles O33: `FramedFor` holds after any number of frames, Done sensors keep their calibration, and the next frame
is the last of a cycle or not. -/
theorem frameAccounting : Obligations.FrameAccounting := by
  intro s d n h0 h1 hcnt0 hcnt1 hrow hcycles hdur hd
  have hphase : phaseTicks s.seq.calDur = d := by rw [phaseTicks, hdur, max_eq_left hd]
  have hframed := (framedFor_zero h0 h1 hcnt0 hcnt1 hrow hcycles d).iterate hphase
  have hrun := execAll_replicate execSeqFrame_eq
  have hn := hframed n
  refine ⟨_, hrun n s, hn.done0_iff hd, hn.done1_iff hd, hn.row, hn.cycles, hn.unsampled, fun hle => ?_,
    fun hle => ?_, ?_⟩
  · have hdone := ((hframed (2 * d)).done0_iff hd).2 le_rfl
    obtain ⟨hstate, hcnt, -, hmins, hmaxs⟩ := scanFrame_iterate_calibration (sn := 0) hle hdone
    exact ⟨_, hrun (2 * d) s, hstate, hcnt, hmins, hmaxs⟩
  · refine ⟨_, hrun (4 * d) s, fun sn => ?_⟩
    have hdone : ((scanFrame^[4 * d] s).sns[sn.val]).calState = .done := by
      fin_cases sn
      · exact ((hframed (4 * d)).done0_iff hd).2 (by omega)
      · exact ((hframed (4 * d)).done1_iff hd).2 le_rfl
    obtain ⟨hstate, hcnt, -, hmins, hmaxs⟩ := scanFrame_iterate_calibration hle hdone
    exact ⟨hstate, hcnt, hmins, hmaxs⟩
  · refine ⟨_, execSeqFrame_eq _, fun hle hcycle => ?_, hn.frame_keeps hd⟩
    have hdone0 := (hn.done0_iff hd).2 (by omega)
    have hdone1 := (hn.done1_iff hd).2 hle
    obtain ⟨-, -, hframe⟩ := seqFrameResult (scanFrame^[n] s)
    obtain ⟨t1, t2, hs1, hs2, -, hlast⟩ := hframe hdone0 hdone1
    obtain ⟨t3, t4, hr1, hr2, heq⟩ := hlast ((hn.row_eq_last_iff hle).2 hcycle)
    rw [execSeqFrame_eq] at heq
    exact ⟨t1, t2, t3, t4, hs1, hs2, hr1, hr2, Host.Outcome.next.inj heq⟩

end Sys2Proof.Machine
end

section
/-!
Control (44_control.md R350, R351): NOP is the zero word alone, and a machine that meets the invariant answers a next
state to every command, every event and so every run.
-/

namespace Sys2Proof.Machine

/-! ## NOP -/

theorem encode_nop : encode .nop = 0 := by decide

theorem opcOf_encode_eq_zero_iff {i : Instr} : opcOf (encode i) = 0x00 ↔ i = .nop := by
  cases i <;> simp [encode]

/-- Settles O17: a legal word is the encoding of its command, and NOP alone is encoded with OPC 0. -/
theorem nopChangesNothing : Obligations.NopChangesNothing := by
  refine ⟨fun dim => decode_eq_ok_iff.2 ⟨encode_nop, rfl⟩, fun _ => rfl, fun dim w hopc hw => ?_⟩
  cases hdecode : decode dim w with
  | error e => exact ⟨e, rfl⟩
  | ok i =>
    obtain ⟨rfl, -⟩ := decode_eq_ok_iff.1 hdecode
    have hnop : i = .nop := opcOf_encode_eq_zero_iff.1 hopc
    exact absurd (hnop ▸ encode_nop) hw

/-! ## Progress -/

section Progress

variable {s : State}

theorem execDlyConfig_next (s : State) : ∃ t, exec .dlyConfig s = .next t := by
  simp only [exec, execDlyConfig]
  cases s.dly.plan <;> exact ⟨_, rfl⟩

/-- Only a render can stop, and it does not while a configured delay is in range (R263). -/
theorem exec_next (hrange : s.status.dlyCfg = true → s.dly.InRange) (i : Instr) : ∃ t, exec i s = .next t := by
  cases i with
  | nop | fltConfig _ | fltApply _ | snsTick _ => exact ⟨_, rfl⟩
  | oscStep _ | fmStep | snsSample _ _ | snsResolve _ =>
    -- Both branches of the condition answer a next state.
    exact ⟨_, (apply_ite Host.Outcome.next _ _ _).symm⟩
  | dlyConfig => exact execDlyConfig_next s
  | dlyRenderL =>
    cases hcfg : s.status.dlyCfg with
    | false => exact ⟨_, execDlyRenderL_of_unconfigured hcfg⟩
    | true => exact ⟨_, execDlyRenderL_of_inRange hcfg (hrange hcfg)⟩
  | dlyRenderR =>
    cases hcfg : s.status.dlyCfg with
    | false => exact ⟨_, execDlyRenderR_of_unconfigured hcfg⟩
    | true => exact ⟨_, execDlyRenderR_of_inRange hcfg (hrange hcfg)⟩
  | seqFrame => exact ⟨_, execSeqFrame_eq s⟩

theorem executeCommand_next (h : s.Inv) (w : Word) : ∃ t, executeCommand w s = .next t := by
  cases hdecode : decode s.build.dim w with
  | error e => exact ⟨_, executeCommand_illegal w e s hdecode⟩
  | ok i =>
    rw [executeCommand_ok w i s hdecode]
    exact exec_next h.delay i

/-- Progress: of all a step can do, a command alone could stop the machine. -/
theorem step_next (h : s.Inv) : ∃ t, step s = .next t := by
  rcases step_cases s with ⟨-, hs⟩ | ⟨rest, ⟨_, -, hs⟩ | ⟨-, hs⟩ | ⟨_, _, -, -, hs⟩ | ⟨_, _, _, -, -, -, hs⟩ |
    ⟨_, v, -, -, hs⟩⟩
  case inr.inr.inr.inr.inr => rw [hs]; exact executeCommand_next (h.withPort rest) v
  all_goals exact ⟨_, hs⟩

end Progress

theorem run_succ_of_step {s t : State} (h : step s = .next t) (n : ℕ) : core.run (n + 1) s = core.run n t := by
  simp only [Host.Core.run, core, h]

/-- Settles O51: by induction on the number of steps, each of which has a next state (`step_next`) and keeps the
invariant (O50). -/
theorem runsNeverStop : Obligations.RunsNeverStop := by
  intro n
  induction n with
  | zero => exact fun s hs => ⟨s, rfl, hs⟩
  | succ n ih =>
    intro s hs
    obtain ⟨u, hstep⟩ := step_next hs
    obtain ⟨t, hrun, ht⟩ := ih u (stepKeepsInvariant s u hs hstep)
    exact ⟨t, (run_succ_of_step hstep n).trans hrun, ht⟩

end Sys2Proof.Machine
end

section
/-!
Non-interference of the sticky bits (60_exceptions.md R407, 10_state.md R75): a command reads nothing that
`forgetErrors` drops, so the sticky bits and ERR_CMD may be forgotten before it.
-/

namespace Sys2Proof.Machine

/-! ## Operations -/

section Operations

variable (s : State)

@[simp] theorem forgetErrors_forgetErrors : forgetErrors (forgetErrors s) = forgetErrors s := rfl

@[simp] theorem forgetErrors_raise (c : Condition) (w : Word) : forgetErrors (raise c w s) = forgetErrors s := by
  cases c <;> rfl

@[simp] theorem forgetErrors_checkTurn (inTurn : Bool) (w : Word) :
    forgetErrors (checkTurn inTurn w s) = forgetErrors s := by
  cases inTurn
  · exact forgetErrors_raise s .errOrder w
  · rfl

theorem forgetErrors_renderLeft : forgetErrors (renderLeft s) = renderLeft (forgetErrors s) := rfl

theorem forgetErrors_renderRight : forgetErrors (renderRight s) = renderRight (forgetErrors s) := rfl

theorem forgetErrors_leftRendered : forgetErrors (leftRendered s) = forgetErrors (leftRendered (forgetErrors s)) := by
  simp only [leftRendered, forgetErrors_renderLeft, forgetErrors_checkTurn, forgetErrors_forgetErrors]

theorem forgetErrors_rightRendered :
    forgetErrors (rightRendered s) = forgetErrors (rightRendered (forgetErrors s)) := by
  simp only [rightRendered, forgetErrors_renderRight, forgetErrors_checkTurn, forgetErrors_forgetErrors]

/-- ROW decides alike on both sides whether the frame is the last of a cycle. -/
theorem forgetErrors_samplingFrame :
    forgetErrors (samplingFrame s) = forgetErrors (samplingFrame (forgetErrors s)) := by
  by_cases hrow : s.seq.row.val = s.build.dim - 1
  · rw [samplingFrame_of_last hrow, samplingFrame_of_last (s := forgetErrors s) hrow]
    rfl
  · rw [samplingFrame_of_not_last hrow, samplingFrame_of_not_last (s := forgetErrors s) hrow]
    rfl

end Operations

/-! ## Commands -/

section Commands

/-- DLY_RENDER_L raises ErrOrder, stops or renders (R261). -/
theorem execDlyRenderL_eq (s : State) : exec .dlyRenderL s =
    if s.status.dlyCfg = false then .next (raise .errOrder (encode .dlyRenderL) s)
    else (s.dly.renderFault [s.dly.rpL, s.dly.wpL, s.dly.wpR]).elim (.next (leftRendered s)) .fault := by
  simp only [exec, execDlyRenderL, leftRendered]
  cases s.dly.renderFault [s.dly.rpL, s.dly.wpL, s.dly.wpR] <;> rfl

/-- DLY_RENDER_R raises ErrOrder, stops or renders (R262). -/
theorem execDlyRenderR_eq (s : State) : exec .dlyRenderR s =
    if s.status.dlyCfg = false then .next (raise .errOrder (encode .dlyRenderR) s)
    else (s.dly.renderFault [s.dly.rpR, s.dly.wpL]).elim (.next (rightRendered s)) .fault := by
  simp only [exec, execDlyRenderR, rightRendered]
  cases s.dly.renderFault [s.dly.rpR, s.dly.wpL] <;> rfl

theorem observed_next {t u : State} (h : forgetErrors t = forgetErrors u) : observed (.next t) = observed (.next u) :=
  congrArg Host.Outcome.next h

variable {a a' b b' : Host.Outcome State Fault Refusal}

theorem observed_ite {p : Prop} [Decidable p] (ha : observed a = observed a') (hb : observed b = observed b') :
    observed (if p then a else b) = observed (if p then a' else b') := by
  split
  · exact ha
  · exact hb

theorem observed_elim_fault (fault : Option Fault) (ha : observed a = observed a') :
    observed (fault.elim a .fault) = observed (fault.elim a' .fault) := by
  cases fault
  · exact ha
  · rfl

theorem observed_execDlyConfig (s : State) :
    observed (exec .dlyConfig s) = observed (exec .dlyConfig (forgetErrors s)) := by
  have hplan : (forgetErrors s).dly.plan = s.dly.plan := rfl
  simp only [exec, execDlyConfig, hplan]
  cases s.dly.plan <;> rfl

/-- The sticky bits and ERR_CMD may be forgotten before a command: no condition looks at them, and the states in each
branch agree. -/
theorem observed_exec_forgetErrors (i : Instr) (s : State) :
    observed (exec i s) = observed (exec i (forgetErrors s)) := by
  cases i with
  | nop | fltConfig _ | fltApply _ | snsTick _ => rfl
  | oscStep _ | fmStep | snsSample _ _ | snsResolve _ => exact observed_ite rfl rfl
  | dlyConfig => exact observed_execDlyConfig s
  | dlyRenderL =>
    rw [execDlyRenderL_eq, execDlyRenderL_eq]
    exact observed_ite rfl (observed_elim_fault _ (observed_next (forgetErrors_leftRendered s)))
  | dlyRenderR =>
    rw [execDlyRenderR_eq, execDlyRenderR_eq]
    exact observed_ite rfl (observed_elim_fault _ (observed_next (forgetErrors_rightRendered s)))
  | seqFrame => exact observed_ite rfl (observed_ite rfl (observed_next (forgetErrors_samplingFrame s)))

end Commands

/-- Settles O57: forgetting the sticky bits and ERR_CMD first makes the two states one. -/
theorem resultsIndependentOfStickyBits : Obligations.ResultsIndependentOfStickyBits := by
  intro i s₁ s₂ h
  rw [observed_exec_forgetErrors i s₁, h, ← observed_exec_forgetErrors]

end Sys2Proof.Machine
end

section
/-!
The conditions (60_exceptions.md R400 to R408): which command raises which condition and with which word, what an
illegal word does, and that only the host clears a sticky bit.
-/

namespace Sys2Proof.Machine

/-! ## Illegal words -/

/-- An illegal word written to CMD only raises ErrIllegal (R403). -/
theorem step_of_illegal {s : State} {w : Word} {rest : List HostEvent} {e : Illegal}
    (hport : s.port = .write cmdIndex w :: rest) (hdecode : decode s.build.dim w = .error e) :
    step s = .next (raise .errIllegal w { s with port := rest }) := by
  rw [step_event s _ rest hport, hostEvent, hostWrite_cmd]
  exact executeCommand_illegal w e _ hdecode

/-- Settles O7: word index 4 is CMD, and row 3 is not below a DIM of 3. -/
theorem illegalCommandOnlyRaises : Obligations.IllegalCommandOnlyRaises := by
  refine ⟨fun s w rest e hport hdecode => step_of_illegal hport hdecode, fun s rest hport hdim => ?_⟩
  have hrow : decode s.build.dim 0x32000300 = .error .row := by rw [hdim]; decide
  exact step_of_illegal hport hrow

/-! ## What a legal command raises -/

/-- From `s` to `t` a command with word `w` raises ErrOrder or ErrConfig as the two flags say, and nothing else; when
it raises ErrOrder it keeps DEGEN. -/
structure Raises (order config : Bool) (w : Word) (s t : State) : Prop where
  errIllegal : t.status.errIllegal = s.status.errIllegal
  errOrder : t.status.errOrder = (s.status.errOrder || order)
  errConfig : t.status.errConfig = (s.status.errConfig || config)
  exclusive : (order && config) = false
  errCmd : t.errCmd = if order || config then w else s.errCmd
  degen : order = true → t.status.degen = s.status.degen

section Raises

variable {s t u : State} {w : Word}

theorem Raises.nothing (hillegal : t.status.errIllegal = s.status.errIllegal)
    (horder : t.status.errOrder = s.status.errOrder) (hconfig : t.status.errConfig = s.status.errConfig)
    (hcmd : t.errCmd = s.errCmd) : Raises false false w s t :=
  ⟨hillegal, by rw [horder, Bool.or_false], by rw [hconfig, Bool.or_false], rfl, hcmd, nofun⟩

theorem raises_errOrder (w : Word) (s : State) : Raises true false w s (raise .errOrder w s) :=
  ⟨rfl, (Bool.or_true _).symm, (Bool.or_false _).symm, rfl, rfl, fun _ => rfl⟩

theorem raises_errConfig (w : Word) (s : State) : Raises false true w s (raise .errConfig w s) :=
  ⟨rfl, (Bool.or_false _).symm, (Bool.or_true _).symm, rfl, rfl, nofun⟩

/-- A command with one premise raises ErrOrder or does its work, which raises nothing. -/
theorem Raises.of_premise {p : Prop} [Decidable p] {order : Bool}
    (h : (if p then .next (raise .errOrder w s) else .next u : Host.Outcome State Fault Refusal) = .next t)
    (hp : p ↔ order = true) (hwork : Raises false false w s u) : Raises order false w s t := by
  split at h
  next hraised => cases h; rw [hp.1 hraised]; exact raises_errOrder w s
  next hnot => cases h; rw [Bool.eq_false_iff.2 (mt hp.2 hnot)]; exact hwork

/-- A render of an unconfigured delay raises ErrOrder; of a configured one, what the render itself raises. -/
theorem Raises.of_render {cfg order : Bool} {fault : Option Fault} (hwork : Raises order false w s u)
    (h : (if cfg = false then .next (raise .errOrder w s) else fault.elim (.next u) .fault :
      Host.Outcome State Fault Refusal) = .next t) : Raises (!cfg || order) false w s t := by
  cases cfg with
  | false => cases h; exact raises_errOrder w s
  | true =>
    cases fault with
    | none => cases h; exact hwork
    | some f => cases h

theorem raises_leftRendered (s : State) :
    Raises s.status.dlyPhase false (encode .dlyRenderL) s (leftRendered s) where
  errIllegal := by rw [leftRendered_status]
  errOrder := by rw [leftRendered_status]
  errConfig := by rw [leftRendered_status, Bool.or_false]
  exclusive := Bool.and_false _
  errCmd := by rw [leftRendered_errCmd, Bool.or_false]; rfl
  degen _ := by rw [leftRendered_status]

theorem raises_rightRendered (s : State) :
    Raises (!s.status.dlyPhase) false (encode .dlyRenderR) s (rightRendered s) where
  errIllegal := by rw [rightRendered_status]
  errOrder := by rw [rightRendered_status]
  errConfig := by rw [rightRendered_status, Bool.or_false]
  exclusive := Bool.and_false _
  errCmd := by rw [rightRendered_errCmd, Bool.or_false]; cases s.status.dlyPhase <;> rfl
  degen _ := by rw [rightRendered_status]

theorem raises_scanFrame (w : Word) (s : State) : Raises false false w s (scanFrame s) := by
  by_cases h0 : (s.sns[0]).calState = .done
  case neg => rw [scanFrame_of_first_calibrating h0]; exact .nothing rfl rfl rfl rfl
  by_cases h1 : (s.sns[1]).calState = .done
  case neg => rw [scanFrame_of_second_calibrating h0 h1]; exact .nothing rfl rfl rfl rfl
  obtain ⟨_, _, _, _, _, heq, -⟩ := samplingFrame_frame s
  rw [scanFrame_of_done h0 h1, heq]
  exact .nothing rfl rfl rfl rfl

theorem raises_of_execDlyConfig (h : exec .dlyConfig s = .next t) :
    Raises false s.dly.plan.isNone (encode .dlyConfig) s t := by
  simp only [exec, execDlyConfig] at h
  cases hplan : s.dly.plan with
  | none => rw [hplan] at h; cases h; exact raises_errConfig _ s
  | some plan => rw [hplan] at h; cases h; exact .nothing rfl rfl rfl rfl

/-- DEGEN is set by SNS_RESOLVE and SEQ_FRAME alone (R402). -/
theorem CommandEffect.degen_eq {i : Instr} (h : CommandEffect s i t) (hresolve : ∀ sn, i ≠ .snsResolve sn)
    (hframe : i ≠ .seqFrame) : t.status.degen = s.status.degen := by
  cases h with
  | raised _ c => cases c <;> rfl
  | samplingFrame => exact absurd rfl hframe
  | snsResolve sn => exact absurd rfl (hresolve sn)
  | _ => rfl

end Raises

/-- Settles O55: command by command, the premise, the plan of DLY_CONFIG or the turn of a render decides. -/
theorem errorsRaisedExactly : Obligations.ErrorsRaisedExactly := by
  intro i s t h order config
  have hraises : Raises order config (encode i) s t := by
    cases i with
    | nop | fltConfig _ | fltApply _ | snsTick _ => cases h; exact .nothing rfl rfl rfl rfl
    | oscStep _ | fmStep | snsSample _ _ | snsResolve _ =>
      exact .of_premise h (by simp [order]) (.nothing rfl rfl rfl rfl)
    | dlyConfig => exact raises_of_execDlyConfig h
    | dlyRenderL => exact .of_render (raises_leftRendered s) ((execDlyRenderL_eq s).symm.trans h)
    | dlyRenderR => exact .of_render (raises_rightRendered s) ((execDlyRenderR_eq s).symm.trans h)
    | seqFrame => rw [execSeqFrame_eq] at h; cases h; exact raises_scanFrame _ s
  exact ⟨hraises.errIllegal, hraises.errOrder, hraises.errConfig, hraises.exclusive, hraises.errCmd,
    (exec_effect h).degen_eq, hraises.degen⟩

/-! ## What clears a sticky bit -/

/-- From `s` to `t` no sticky bit is cleared and a non-zero ERR_CMD is not made zero. -/
structure KeepsErrors (s t : State) : Prop where
  errIllegal : s.status.errIllegal = true → t.status.errIllegal = true
  errConfig : s.status.errConfig = true → t.status.errConfig = true
  errOrder : s.status.errOrder = true → t.status.errOrder = true
  degen : s.status.degen = true → t.status.degen = true
  errCmd : s.errCmd ≠ 0 → t.errCmd ≠ 0

section Keeps

variable {s t : State}

theorem KeepsErrors.of_eq (hstatus : t.status = s.status) (hcmd : t.errCmd = s.errCmd) : KeepsErrors s t := by
  constructor <;> simp [hstatus, hcmd]

theorem KeepsErrors.of_port {rest : List HostEvent} (h : KeepsErrors { s with port := rest } t) : KeepsErrors s t :=
  { h with }

/-- An illegal word is not 0, which is NOP. -/
theorem ne_zero_of_illegal {dim : ℕ} {w : Word} {e : Illegal} (h : decode dim w = .error e) : w ≠ 0 := by
  rintro rfl
  cases (nopChangesNothing.1 dim).symm.trans h

theorem keepsErrors_illegal {w : Word} (hw : w ≠ 0) (s : State) : KeepsErrors s (raise .errIllegal w s) :=
  ⟨fun _ => rfl, id, id, id, fun _ => hw⟩

theorem encode_ne_zero {i : Instr} (hi : i ≠ .nop) : encode i ≠ 0 := fun h =>
  hi (opcOf_encode_eq_zero_iff.1 (by rw [h]; decide))

/-- A command only ever sets DEGEN. -/
theorem CommandEffect.degen_kept {i : Instr} (h : CommandEffect s i t) (hdegen : s.status.degen = true) :
    t.status.degen = true := by
  cases h with
  | raised _ c => cases c <;> exact hdegen
  | samplingFrame =>
    obtain ⟨_, _, _, _, _, heq, -⟩ := samplingFrame_frame s
    simp [heq, hdegen]
  | snsResolve sn =>
    obtain ⟨_, _, _, _, _, heq, -⟩ := resolve_frame sn s
    simp [heq, hdegen]
  | _ => exact hdegen

theorem raises_of_exec {i : Instr} (h : exec i s = .next t) : ∃ order config, Raises order config (encode i) s t := by
  obtain ⟨hillegal, horder, hconfig, hexclusive, hcmd, -, hdegen⟩ := errorsRaisedExactly i s t h
  exact ⟨_, _, hillegal, horder, hconfig, hexclusive, hcmd, hdegen⟩

/-- Raising sets bits and records the command's word. -/
theorem Raises.keepsErrors {order config : Bool} {w : Word} (h : Raises order config w s t) (hw : w ≠ 0)
    (hdegen : s.status.degen = true → t.status.degen = true) : KeepsErrors s t where
  errIllegal hs := h.errIllegal.trans hs
  errConfig hs := by rw [h.errConfig, hs, Bool.true_or]
  errOrder hs := by rw [h.errOrder, hs, Bool.true_or]
  degen := hdegen
  errCmd hs := by
    rw [h.errCmd]
    split
    · exact hw
    · exact hs

/-- NOP changes nothing, and the word of every other command is not 0. -/
theorem keepsErrors_of_exec {i : Instr} (h : exec i s = .next t) : KeepsErrors s t := by
  by_cases hi : i = .nop
  case pos => subst hi; cases h; exact .of_eq rfl rfl
  obtain ⟨_, _, hraises⟩ := raises_of_exec h
  exact hraises.keepsErrors (encode_ne_zero hi) (exec_effect h).degen_kept

theorem keepsErrors_of_executeCommand {w : Word} (h : executeCommand w s = .next t) : KeepsErrors s t := by
  cases hdecode : decode s.build.dim w with
  | error e =>
    rw [executeCommand_illegal w e s hdecode] at h
    cases h
    exact keepsErrors_illegal (ne_zero_of_illegal hdecode) s
  | ok i =>
    rw [executeCommand_ok w i s hdecode] at h
    exact keepsErrors_of_exec h

theorem WriteEffect.keepsErrors {v : Word} {r : Reg} (h : WriteEffect s v r t) (hr : r ≠ .status) :
    KeepsErrors s t := by
  cases h with
  | status => exact absurd rfl hr
  | _ => exact ⟨id, id, id, id, id⟩

/-- Word index 3 alone is STATUS (R36). -/
theorem eq_three_of_regOf_status {idx : BitVec 11} (h : regOf idx = some .status) : idx = 3 := by
  have hoffset : 0x000C = 4 * idx.toNat := offset_of_regOf h
  apply BitVec.eq_of_toNat_eq
  show idx.toNat = 3
  omega

/-- A step that takes no reset keeps the sticky bits and ERR_CMD, or takes a write of STATUS. -/
theorem step_keepsErrors_or_clears (hstep : step s = .next t) (hreset : s.port.head? ≠ some .reset) :
    KeepsErrors s t ∨
      ∃ v, s.port.head? = some (.write 3 v) ∧ t.status = s.status.clear v ∧ t.errCmd = s.errCmd := by
  rcases step_cases s with ⟨-, hs⟩ | ⟨rest, ⟨_, -, hs⟩ | ⟨hport, -⟩ | ⟨_, _, -, -, hs⟩ |
    ⟨idx, v, r, hport, hr, -, hs⟩ | ⟨_, v, -, -, hs⟩⟩
  case inr.inr.inl => rw [hport] at hreset; exact absurd rfl hreset
  case inr.inr.inr.inr.inl =>
    cases hs.symm.trans hstep
    by_cases hstatus : r = .status
    · subst hstatus
      rw [hport, eq_three_of_regOf_status hr]
      exact .inr ⟨v, rfl, rfl, rfl⟩
    · exact .inl ((writeReg_effect r v { s with port := rest }).keepsErrors hstatus).of_port
  case inr.inr.inr.inr.inr =>
    exact .inl (keepsErrors_of_executeCommand (hs.symm.trans hstep)).of_port
  all_goals
    cases hs.symm.trans hstep
    exact .inl (.of_eq rfl rfl)

theorem kept_or_written {oldest : Option HostEvent} {v : Word} (hport : oldest = some (.write 3 v)) {n : ℕ}
    {flag : Bool} (h : flag = true) :
    (flag && !v.getLsbD n) = true ∨ ∃ v, oldest = some (.write 3 v) ∧ v.getLsbD n = true := by
  cases hv : v.getLsbD n with
  | false => exact .inl (by simp [h])
  | true => exact .inr ⟨v, hport, hv⟩

end Keeps

/-- Settles O56: a write of STATUS clears the bits written as 1; every other event but a reset keeps them all. -/
theorem stickyBitsClearedOnlyByHost : Obligations.StickyBitsClearedOnlyByHost := by
  intro s t hstep hreset
  rcases step_keepsErrors_or_clears hstep hreset with hkept | ⟨v, hport, hstatus, hcmd⟩
  · exact ⟨.inl ∘ hkept.errIllegal, .inl ∘ hkept.errConfig, .inl ∘ hkept.errOrder, .inl ∘ hkept.degen,
      hkept.errCmd⟩
  · rw [hstatus, hcmd]
    exact ⟨kept_or_written hport, kept_or_written hport, kept_or_written hport, kept_or_written hport, id⟩

end Sys2Proof.Machine
end

section
/-!
The flat grid (60_exceptions.md R406, 43_sequencer.md R322): a peak of zeros at the corner has the denominator 0, and
its clamped coordinates are +0.0.
-/

namespace Sys2Proof.Machine

/-- A positive integer that converts exactly divides +0.0 into +0.0. -/
theorem fdiv_ZERO_itof {n : ℤ} (hpos : 0 < n) (hle : n ≤ 2 ^ 24) : fdiv ZERO (itof n) = ZERO := by
  obtain ⟨hfin, hval⟩ := smallIntegersConvertExactly n (by omega)
  have hne : toRat (itof n) ≠ 0 := by rw [hval]; exact_mod_cast hpos.ne'
  have hzero : isZero (itof n) = false := Bool.eq_false_iff.2 (mt (toRat_eq_zero_iff _).2 hne)
  have hround : RoundsTo n (itof n) := by simpa [itof] using roundInt_roundsTo false n 0
  have hsign : fsign (itof n) = false := by
    rw [hround.sign (by exact_mod_cast hpos.ne')]
    simpa using hpos.le
  rw [fdiv_of_zero (by decide) hfin (by decide) hzero, hsign]
  rfl

/-- A peak of zeros at index 0 gives the coordinate +0.0 and the denominator 0 (R302). -/
theorem axisPosition_zeros (b : Build) : axisPosition b 0 ZERO ZERO ZERO = (ZERO, true) := by
  have hinterp : interp ZERO ZERO ZERO = (ZERO, true) := by decide
  have hsum : fadd (itof (0 : ℕ)) ZERO = ZERO := by decide
  have hclamp : clamp01 ZERO = ZERO := by decide
  have hdim := b.dim_ge
  have hdim' := b.dim_le
  simp only [axisPosition, hinterp, hsum]
  rw [fdiv_ZERO_itof (by omega) (by omega), hclamp]

section Flat

variable {x : Sensor} (hgrid : x.grid = Vector.replicate 16 (Vector.replicate 16 0))
include hgrid

theorem Sensor.cell_of_flat (c r : ℕ) : x.cell c r = ZERO := by
  simp [Sensor.cell, hgrid, ZERO]

theorem Sensor.raw_of_flat (b : Build) (hcol : x.peakCol = 0) (hrow : x.peakRow = 0) :
    x.rawX b = (ZERO, true) ∧ x.rawY b = (ZERO, true) := by
  simp [Sensor.rawX, Sensor.rawY, Sensor.cell_of_flat hgrid, hcol, hrow, axisPosition_zeros]

end Flat

/-- The resolver's inputs are the newest in the histories of the sensor's three filters (R322). -/
theorem resolve_inputs (sn : Fin 2) (s : State) :
    ((resolve sn s).flt[(sensorFilter sn 0).val]).x1 = ((s.sns[sn.val]).rawX s.build).1 ∧
      ((resolve sn s).flt[(sensorFilter sn 1).val]).x1 = ((s.sns[sn.val]).rawY s.build).1 ∧
      ((resolve sn s).flt[(sensorFilter sn 2).val]).x1 = (s.sns[sn.val]).peakVal := by
  rw [resolve_eq]
  simp

theorem resolve_degen (sn : Fin 2) (s : State) : (resolve sn s).status.degen =
    (s.status.degen || (((s.sns[sn.val]).rawX s.build).2 || ((s.sns[sn.val]).rawY s.build).2)) := rfl

/-- Settles O38: both coordinates of a flat grid are +0.0 with the denominator 0, and the peak value is +0.0. -/
theorem flatGridIsDegenerate : Obligations.FlatGridIsDegenerate := by
  intro sn s x hdone hgrid hval hcol hrow
  obtain ⟨hx, hy⟩ := Sensor.raw_of_flat hgrid s.build hcol hrow
  obtain ⟨hinX, hinY, hinZ⟩ := resolve_inputs sn s
  refine ⟨resolve sn s, execSnsResolve_of_done hdone, ?_, rfl, hinX.trans (congrArg Prod.fst hx),
    hinY.trans (congrArg Prod.fst hy), hinZ.trans hval⟩
  rw [resolve_degen, hx, Bool.true_or, Bool.or_true]

end Sys2Proof.Machine
end

section
/-!
Reset and hazards (70_reset_and_hazards.md R450, R451, R467): the values of R450 read through every register, the reset
input, and the delay memory cleared by silent renders. The words that silent pairs have written behind a write pointer
are a queue of zeros, and after CAP pairs that queue is the whole channel.
-/

namespace Sys2Proof.Machine

/-! ## The reset state -/

theorem Status.toWord_reset : Status.reset.toWord = 0 := by decide

section Reset

variable (b : Build)

@[simp] theorem osc_resetOf (k : Fin 2) : (State.resetOf b).osc[k.val] = Osc.reset := by
  simp [State.resetOf]

@[simp] theorem flt_resetOf (i : Fin 8) : (State.resetOf b).flt[i.val] = Filter.reset := by
  simp [State.resetOf]

@[simp] theorem ain_resetOf (ch : Fin 16) : (State.resetOf b).ain[ch.val] = 0 := by
  simp [State.resetOf]

@[simp] theorem sns_resetOf (sn : Fin 2) : (State.resetOf b).sns[sn.val] = Sensor.reset b sn.val := by
  simp [State.resetOf]

/-- The columns below DIM are counted over both sensors, modulo NAIN (R64). -/
theorem readReg_colch_resetOf (sn : Fin 2) {c : Fin 16} (hc : c.val < b.dim) :
    readReg (.colch sn c) (State.resetOf b) = BitVec.ofNat 32 ((sn.val * b.dim + c.val) % 16) := by
  have hbuild : c.val < (State.resetOf b).build.dim := hc
  have hchannel : ((Sensor.reset b sn.val).colch[c.val]).val = (sn.val * b.dim + c.val) % 16 := by
    simp [Sensor.reset, resetColch, hc]
  simp only [readReg, if_pos hbuild, sns_resetOf, hchannel]

/-- Both sensors are idle, so both calibrating flags are set, and ROW is 0 (R55). -/
theorem readReg_seqState_resetOf : readReg .seqState (State.resetOf b) = 0x00030000 := by
  have h0 : ((State.resetOf b).sns[0]).calState = .idle := congrArg Sensor.calState (sns_resetOf b 0)
  have h1 : ((State.resetOf b).sns[1]).calState = .idle := congrArg Sensor.calState (sns_resetOf b 1)
  have hrow : (State.resetOf b).seq.row = 0 := rfl
  rw [readReg, seqStateWord, h0, h1, hrow]
  decide

theorem Sensor.peakLocWord_reset (sn : ℕ) : (Sensor.reset b sn).peakLocWord = 0 := by
  simp [Sensor.peakLocWord, Sensor.reset]

/-- The registers that R450 resets to 0. -/
theorem readReg_resetOf_eq_zero {r : Reg} (hid : r ≠ .id) (hhwcfg : r ≠ .hwcfg) (hdepth : r ≠ .dlyDepth)
    (hseq : r ≠ .seqState) (hcolch : ∀ sn c, r ≠ .colch sn c) : readReg r (State.resetOf b) = 0 := by
  cases r with
  | id => exact absurd rfl hid
  | hwcfg => exact absurd rfl hhwcfg
  | dlyDepth => exact absurd rfl hdepth
  | seqState => exact absurd rfl hseq
  | colch sn c => exact absurd rfl (hcolch sn c)
  | status => exact Status.toWord_reset
  | cmd | errCmd | carBase | fmOut | calDur | cycles => rfl
  | osc k f => rw [readReg, osc_resetOf]; cases f <;> rfl
  | flt i f => rw [readReg, flt_resetOf]; cases f <;> rfl
  | dly f => cases f <;> rfl
  | ain ch => exact ain_resetOf b ch
  | sns sn f =>
    rw [readReg, sns_resetOf]
    cases f with
    | peakLoc => exact Sensor.peakLocWord_reset b sn.val
    | posX | posY | posZ | peakVal | calCnt | calState => rfl
  | min sn c | max sn c | grid sn c r => simp [readReg, Sensor.reset]

end Reset

/-- Settles O14: apart from the fixed words, COLCH and SEQ_STATE every register is a field that is reset to 0, and the
line of ROW = 0 is the one driven. -/
theorem registersAfterReset : Obligations.RegistersAfterReset := by
  intro b
  refine ⟨rfl, hwcfgWord_eq b, rfl, readReg_seqState_resetOf b, fun sn c => readReg_colch_resetOf b sn,
    fun sn c hc => ((readReg_column _ sn c).2 hc).1, fun r => readReg_resetOf_eq_zero b, fun ch j => ?_, fun r => ?_⟩
  · cases ch <;> rfl
  · have hrow : rowDrive (State.resetOf b) r = true ↔ r = 0 := exactlyOneRowIsDriven _ (State.Inv.resetOf b) r
    rw [Bool.eq_iff_iff, hrow, decide_eq_true_iff]

/-- Settles O13: the port hands the event to `resetInput`. -/
theorem resetInputRestoresResetState : Obligations.ResetInputRestoresResetState :=
  fun s rest hport => step_event s .reset rest hport

/-- Settles O49: `State.reset` is the reset state of one build. -/
theorem invariantHoldsAtReset : Obligations.InvariantHoldsAtReset :=
  ⟨State.Inv.resetOf, State.Inv.resetOf Config.build⟩

/-! ## Writing zeros round a channel -/

/-- A queue of CAP zeros is the whole channel. -/
theorem IsQueue.eq_zero_of_full {mem : ℕ → Word} {cap rp wp : ℕ} (h : IsQueue mem cap rp wp (List.replicate cap 0))
    {j : ℕ} (hj : j < cap) : mem j = 0 := by
  have hcap : 0 < cap := Nat.zero_lt_of_lt hj
  have hplace : (rp + (j + (cap - rp)) % cap) % cap = j := by
    have hrp := h.rp_lt
    rw [Nat.add_mod_mod, show rp + (j + (cap - rp)) = j + cap by omega, Nat.add_mod_right, Nat.mod_eq_of_lt hj]
  have hword := h.words ((j + (cap - rp)) % cap) (by simpa using Nat.mod_lt _ hcap)
  rwa [hplace, List.getElem_replicate] at hword

section Sweep

variable {mem : ℕ → ℕ → Word} {wp : ℕ → ℕ} {cap : ℕ} (hwp : wp 0 < cap)
  (hmem : ∀ n, mem (n + 1) = Function.update (mem n) (wp n) 0) (hnext : ∀ n, wp (n + 1) = (wp n + 1) % cap)
include hwp hmem hnext

/-- `n` zeros written at an advancing pointer are a queue behind it. -/
theorem isQueue_of_zero_writes {n : ℕ} (hn : n ≤ cap) : IsQueue (mem n) cap (wp 0) (wp n) (List.replicate n 0) := by
  induction n with
  | zero => exact ⟨hwp, Nat.zero_le _, (Nat.mod_eq_of_lt hwp).symm, fun i hi => absurd hi (Nat.not_lt_zero i)⟩
  | succ n ih =>
    rw [hmem, hnext, List.replicate_succ']
    exact (ih (by omega)).push (by simpa using hn) 0

/-- After CAP writes the pointer has been round the whole channel. -/
theorem eq_zero_of_zero_writes : ∀ j < cap, mem cap j = 0 := fun _ =>
  (isQueue_of_zero_writes hwp hmem hnext le_rfl).eq_zero_of_full

end Sweep

/-! ## Silent pairs -/

/-- A configured delay of capacity `cap` in range, with a gain and an input of zero and finite memory (R467). -/
structure State.Silent (cap : ℕ) (s : State) : Prop where
  cfg : s.status.dlyCfg = true
  cap_eq : s.dly.cap.toNat = cap
  inRange : s.dly.InRange
  memL : s.dmemL.wf = true
  memR : s.dmemR.wf = true
  gain : isZero s.dly.gain = true
  input : s.dly.input = 0
  finite : ∀ ch j, isFinite (s.memRead ch j) = true

theorem execAll_append {is js : List Instr} {s t : State} (h : execAll is s = .next t) :
    execAll (is ++ js) s = execAll js t := by
  induction is generalizing s with
  | nil => cases h; rfl
  | cons i is ih =>
    rw [execAll] at h
    rw [List.cons_append, execAll]
    cases hexec : exec i s with
    | next u => rw [hexec] at h; exact ih h
    | fault r => rw [hexec] at h; cases h
    | refused r => rw [hexec] at h; cases h

/-- With a zero gain the feedback of a finite word onto +0.0 is +0.0. -/
theorem fadd_zero_fmul_of_zero_gain {g x : Word} (hg : isZero g = true) (hx : isFinite x = true) :
    fadd 0 (fmul g x) = 0 := by
  have hprod : isZero (fmul g x) = true := by
    rw [fmul_of_zero (isFinite_of_isZero hg) hx (.inl hg)]
    exact isZero_fzero _
  rw [fadd_of_zero_sum (by decide) (isFinite_of_isZero hprod)
    (by rw [(toRat_eq_zero_iff _).2 hprod]; exact (add_zero _).trans toRat_ZERO)]
  rfl

/-- A finite word written to a channel of finite words leaves them all finite. -/
theorem isFinite_update {mem : ℕ → Word} {i : ℕ} {v : Word} (hmem : ∀ j, isFinite (mem j) = true)
    (hv : isFinite v = true) (j : ℕ) : isFinite (Function.update mem i v j) = true := by
  rw [Function.update_apply]
  split
  · exact hv
  · exact hmem j

section Pairs

variable {s : State} {cap : ℕ}

theorem renderedPair_memRead_left_of_silent (h : s.Silent cap) :
    (renderedPair s).memRead .left = Function.update (s.memRead .left) s.dly.wpL.toNat 0 := by
  have hout : isFinite (renderedPair s).dly.outR = true := by
    rw [renderedPair_dly, leftRendered_memRead_right h.memR]
    exact isFinite_update (h.finite .right) (h.finite .left _) _
  rw [renderedPair_memRead_left h.inRange h.memL h.memR, h.input, fadd_zero_fmul_of_zero_gain h.gain hout]

theorem State.Silent.renderedPair (h : s.Silent cap) : (renderedPair s).Silent cap where
  cfg := by rw [renderedPair_status]; exact h.cfg
  cap_eq := by rw [renderedPair_dly]; exact h.cap_eq
  inRange := renderedPair_inRange h.inRange
  memL := (renderedPair_wf h.inRange h.memL h.memR).1
  memR := (renderedPair_wf h.inRange h.memL h.memR).2
  gain := by rw [renderedPair_dly]; exact h.gain
  input := by rw [renderedPair_dly]; exact h.input
  finite ch := by
    cases ch with
    | left => rw [renderedPair_memRead_left_of_silent h]; exact isFinite_update (h.finite .left) (by decide)
    | right => rw [renderedPair_memRead_right h.memR]; exact isFinite_update (h.finite .right) (h.finite .left _)

theorem State.Silent.iterate (h : s.Silent cap) (n : ℕ) : (Machine.renderedPair^[n] s).Silent cap :=
  Function.Iterate.rec (State.Silent cap) h (fun _ ht => ht.renderedPair) n

theorem execAll_renderPairs (h : s.Silent cap) (n : ℕ) :
    execAll (List.replicate n [Instr.dlyRenderL, Instr.dlyRenderR]).flatten s = .next (renderedPair^[n] s) := by
  induction n generalizing s with
  | zero => rfl
  | succ n ih =>
    rw [List.replicate_succ, List.flatten_cons, execAll_append (execAll_renderPair h.cfg h.inRange),
      Function.iterate_succ_apply]
    exact ih h.renderedPair

/-- CAP silent pairs write the left channel over with +0.0. -/
theorem memRead_left_of_silent (h : s.Silent cap) : ∀ j < cap, (renderedPair^[cap] s).memRead .left j = 0 := by
  refine eq_zero_of_zero_writes (mem := fun n => (renderedPair^[n] s).memRead .left)
    (wp := fun n => (renderedPair^[n] s).dly.wpL.toNat) (h.cap_eq ▸ h.inRange.wpL) (fun n => ?_) (fun n => ?_)
  · rw [Function.iterate_succ_apply', renderedPair_memRead_left_of_silent (h.iterate n)]
  · obtain ⟨-, hwp, -, -⟩ := renderedPair_pointers (h.iterate n).inRange
    rw [Function.iterate_succ_apply', hwp, (h.iterate n).cap_eq]

/-- Silent pairs keep a left channel of zeros. -/
theorem memRead_left_iterate_of_clear (h : s.Silent cap) (hclear : ∀ j < cap, s.memRead .left j = 0) (n : ℕ) :
    ∀ j < cap, (renderedPair^[n] s).memRead .left j = 0 := by
  induction n with
  | zero => exact hclear
  | succ n ih =>
    intro j hj
    rw [Function.iterate_succ_apply', renderedPair_memRead_left_of_silent (h.iterate n), Function.update_apply, ih j hj,
      ite_self]

/-- CAP silent pairs copy the zeros of the left channel over the right one. -/
theorem memRead_right_of_clear (h : s.Silent cap) (hclear : ∀ j < cap, s.memRead .left j = 0) :
    ∀ j < cap, (renderedPair^[cap] s).memRead .right j = 0 := by
  refine eq_zero_of_zero_writes (mem := fun n => (renderedPair^[n] s).memRead .right)
    (wp := fun n => (renderedPair^[n] s).dly.wpR.toNat) (h.cap_eq ▸ h.inRange.wpR) (fun n => ?_) (fun n => ?_)
  · have hread := memRead_left_iterate_of_clear h hclear n _ ((h.iterate n).cap_eq ▸ (h.iterate n).inRange.rpL)
    rw [Function.iterate_succ_apply', renderedPair_memRead_right (h.iterate n).memR, hread]
  · obtain ⟨-, -, -, hwp⟩ := renderedPair_pointers (h.iterate n).inRange
    rw [Function.iterate_succ_apply', hwp, (h.iterate n).cap_eq]

end Pairs

/-- Settles O36: the first CAP pairs clear the left channel, and the next CAP pairs copy it to the right one. -/
theorem silentPairsClearDelayMemory : Obligations.SilentPairsClearDelayMemory := by
  intro s hcfg hrange hL hR hgain hinput hfinite
  have h : s.Silent s.dly.cap.toNat := ⟨hcfg, rfl, hrange, hL, hR, hgain, hinput, hfinite⟩
  have hclear := memRead_left_of_silent h
  refine ⟨_, execAll_renderPairs h _, fun ch j hj => ?_⟩
  rw [two_mul, Function.iterate_add_apply]
  cases ch with
  | left => exact memRead_left_iterate_of_clear (h.iterate _) hclear _ j hj
  | right => exact memRead_right_of_clear (h.iterate _) hclear j hj

end Sys2Proof.Machine
end
